-- ==== Sys2Proof/Word.lean ====
section
/-! DEFINITION. The word types of the ports, and the names of the operand classes.

Bits are numbered from 0 at the least significant bit and `a ++ b` has `a` in the high bits
(spec/00_scope.md R14), which is what `BitVec` and its `++` do.  `bits_N(i)` of R15 is
`BitVec.ofInt N i`, `int(v)` is `BitVec.toNat v`, `sint(v)` is `BitVec.toInt v`. -/

namespace Sys2Proof

/-- A 64-bit port word: `x` and `y` (10_state.md R26, R27). -/
abbrev Word64 := BitVec 64

/-- A 32-bit port word: `k` and `e`, and a binary32 pattern (R26, R27, 20_memory.md R42). -/
abbrev Word32 := BitVec 32

/-- The operation-select field `op[1:0]` (30_encoding.md R50). -/
abbrev OpField := BitVec 2

/-- The 98-bit operation word `op ++ k ++ x` (30_encoding.md R51). -/
abbrev Opw := BitVec 98

/-- The five operand classes (40_binary_formats.md R73, R81). -/
inductive FpClass where
  | zero
  | subnormal
  | normal
  | inf
  | nan
  deriving DecidableEq, Repr

end Sys2Proof
end

