-- ==== Sys2Proof/Config.lean ====
section
/-! DEFINITION. What is fixed when the block is built (00_scope.md R10 to R12), and the free values:
opaque constants that stand for the spec's `ANY_N` (R16). -/

namespace Sys2Proof

/-- `P_OOD_DATA` (00_scope.md R11): what the data outputs carry for an out-of-domain operand. -/
inductive OodData where
  /-- The data outputs are any value. -/
  | unspecified
  /-- The data outputs are those of AXF's steps applied as written. -/
  | literal
  deriving DecidableEq, Repr

/-- The three build-time parameters (10_state.md R24).  They stand in `State` so that one step
function serves every build; no step changes them. -/
structure Config where
  /-- `P_LATENCY` (R10): clock cycles from an accepted operation to its result. -/
  latency : Nat
  /-- `P_OOD_DATA` (R11). -/
  oodData : OodData
  /-- `P_HAS_BINARY32` (R12): whether FREXP32 and LDEXP32 exist. -/
  hasBinary32 : Bool
  deriving DecidableEq, Repr

namespace Config

/-- The default build: `P_LATENCY = 0`, `P_OOD_DATA = UNSPECIFIED`, `P_HAS_BINARY32 = 0`
(R10, R11, R12). -/
def specDefault : Config := { latency := 0, oodData := .unspecified, hasBinary32 := false }

/-- The configuration string `frexp_ldexp-b64[-b32]-L<P_LATENCY>-<P_OOD_DATA>` (00_scope.md R4). -/
def name (c : Config) : String :=
  "frexp_ldexp-b64" ++ (if c.hasBinary32 then "-b32" else "") ++ "-L" ++ toString c.latency
    ++ (match c.oodData with
        | .unspecified => "-UNSPECIFIED"
        | .literal => "-LITERAL")

end Config

/-- A free value of `y` for an out-of-domain operation of an `UNSPECIFIED` build
(40_binary_formats.md R78): no body, so nothing can be proved of it.  It is applied to what the
outputs may depend on (10_state.md R20, 20_memory.md R44): the build, the operation and the operand
bits it reads (notes/assumptions/3.md). -/
opaque Config.oodY : Config → OpField → Word64 → Word32 → Word64

/-- A free value of `e` for an out-of-domain Decompose of an `UNSPECIFIED` build (R78), applied to the
same. -/
opaque Config.oodE : Config → OpField → Word64 → Word32 → Word32

/-- The places of the spec that write `ANY` for something that is no operation's output.  Draws at
different places are unrelated. -/
inductive DrawSite where
  /-- The data that enter stage 1 in a cycle without an operation (10_state.md R31). -/
  | idleStage
  /-- The outputs in a cycle with `out_valid = 0` (10_state.md R30). -/
  | idlePorts
  /-- The data of stage `i + 1` after a reset edge (70_reset_and_hazards.md R172). -/
  | resetStage (i : Nat)
  /-- Stage `i + 1` before the first reset (70_reset_and_hazards.md R173). -/
  | powerOn (i : Nat)
  /-- The output ports before the first reset (70_reset_and_hazards.md R173), when no cycle has run
  (notes/assumptions/10.md). -/
  | powerOnPorts
  deriving DecidableEq, Repr

/-- A free 64-bit value (`ANY_64`, 00_scope.md R16): no body, so nothing can be proved of it.  The
number is the draw counter of `State` (notes/assumptions/2.md). -/
opaque Config.anyY : DrawSite → Nat → Word64

/-- A free 32-bit value (`ANY_32`). -/
opaque Config.anyE : DrawSite → Nat → Word32

/-- A free value of the `dom_err` bit (`ANY_1`). -/
opaque Config.anyDomErr : DrawSite → Nat → Bool

/-- A free value of the `ill_op` bit (`ANY_1`). -/
opaque Config.anyIllOp : DrawSite → Nat → Bool

/-- A free valid bit, for a pipeline that was never reset (70_reset_and_hazards.md R173). -/
opaque Config.anyValid : DrawSite → Nat → Bool

end Sys2Proof
end

