-- ==== Sys2Proof/Syntax.lean ====
section
/-! DEFINITION. The operations: one constructor per row of spec/opcode_table.json. -/

namespace Sys2Proof

/-- One presented operation (30_encoding.md R50, R51), with both operand fields whole: the bits an
operation ignores (R55) are part of the word, so no bit of a word is lost in decoding. -/
inductive Instr where
  /-- `op = 0b00`: Decompose a binary64 value (41_decompose.md R90).  `k` is ignored. -/
  | frexp64 (x : Word64) (k : Word32)
  /-- `op = 0b01`: Recompose a binary64 value (42_recompose.md R110). -/
  | ldexp64 (x : Word64) (k : Word32)
  /-- `op = 0b10`: Decompose a binary32 value in `x[31:0]` (41_decompose.md R100).  `x[63:32]` and
  `k` are ignored. -/
  | frexp32 (x : Word64) (k : Word32)
  /-- `op = 0b11`: Recompose a binary32 value in `x[31:0]` (42_recompose.md R120).  `x[63:32]` is
  ignored. -/
  | ldexp32 (x : Word64) (k : Word32)
  deriving DecidableEq, Repr

end Sys2Proof
end

