-- ==== Sys2Proof/WellFormed.lean ====
section
/-! DEFINITION. Which operations a configuration has.  Every field of an operation may hold every
value (30_encoding.md R53, R55), so this is the only check there is. -/

namespace Sys2Proof

/-- Whether the configuration has the operation: the column "exists when" of 30_encoding.md R50. -/
def Instr.existsIn (c : Config) : Instr → Bool
  | .frexp64 _ _ => true
  | .ldexp64 _ _ => true
  | .frexp32 _ _ => c.hasBinary32
  | .ldexp32 _ _ => c.hasBinary32

end Sys2Proof
end

