-- ==== Sys2Proof/Decode.lean ====
section
/-! DEFINITION. Decoding the 98-bit operation word, and encoding into it (30_encoding.md R50, R51,
R56 to R58).  On the block the three fields arrive on separate ports (R51), so there is no byte
order; `OPW` is the number whose bits 97..96, 95..64 and 63..0 are `op`, `k` and `x`. -/

namespace Sys2Proof

/-- `OPW = op[1:0] ++ k[31:0] ++ x[63:0]` (R51). -/
def opw (op : OpField) (k : Word32) (x : Word64) : Opw := op ++ k ++ x

/-- Bits 97..96 of an operation word (R51). -/
def opOf (w : Opw) : OpField := w.extractLsb' 96 2

/-- Bits 95..64 of an operation word (R51). -/
def kOf (w : Opw) : Word32 := w.extractLsb' 64 32

/-- Bits 63..0 of an operation word (R51). -/
def xOf (w : Opw) : Word64 := w.extractLsb' 0 64

/-- The operation that the field `op` selects (the table of R50): bit 1 is the format, bit 0 the
function. -/
def decodeFields (op : OpField) (k : Word32) (x : Word64) : Instr :=
  match op.getLsbD 1, op.getLsbD 0 with
  | false, false => .frexp64 x k
  | false, true => .ldexp64 x k
  | true, false => .frexp32 x k
  | true, true => .ldexp32 x k

/-- The row of the opcode table an operation word belongs to, for every word (R57, R58).  Whether
the configuration has that row is asked by `Instr.existsIn`. -/
def decode (w : Opw) : Instr := decodeFields (opOf w) (kOf w) (xOf w)

/-- Why a number is not an operation of a configuration. -/
inductive DecodeError where
  /-- A bit above bit 97 is set: the number is no `OPW` (R51). -/
  | notAnOpw (w : Nat)
  /-- `op` selects an operation the configuration lacks: ILLEGAL (R56). -/
  | illegalOp (op : OpField)
  deriving DecidableEq, Repr

/-- The whole decoder of R57, for a configuration and any number: one of the four operations, or
ILLEGAL, or no operation word at all. -/
def decodeIn (c : Config) (w : Nat) : Except DecodeError Instr :=
  if w < 2 ^ 98 then
    let i := decode (BitVec.ofNat 98 w)
    if i.existsIn c then .ok i else .error (.illegalOp (opOf (BitVec.ofNat 98 w)))
  else .error (.notAnOpw w)

/-- The operation word of an operation, from the table of R50 and the layout of R51. -/
def encode : Instr → Opw
  | .frexp64 x k => opw 0b00#2 k x
  | .ldexp64 x k => opw 0b01#2 k x
  | .frexp32 x k => opw 0b10#2 k x
  | .ldexp32 x k => opw 0b11#2 k x

/-- The instruction read from a row of spec/opcode_table.json whose bits are `w` (98 bits, 104 in
whole bytes).  The table gives bits 97..0 only: a word with a higher bit set is no operation word. -/
def decodeTableWord (nbits w : Nat) : Option Instr :=
  if w < 2 ^ nbits ∧ w < 2 ^ 98 then some (decode (BitVec.ofNat 98 w)) else none

end Sys2Proof
end

