-- ==== Sys2Proof/Machine/State.lean ====
section
/-! DEFINITION. Everything the spec gives the block to hold or to carry on its ports: the build-time
parameters, the input ports, the pipeline, the output ports (10_state.md R26, R27, R31).  The block
has no register file, program counter, stored flag, control register, memory or trap state
(10_state.md R20 to R25, 20_memory.md R40, 60_exceptions.md R146 to R153). -/

namespace Sys2Proof.Machine

/-- The outputs of one operation (10_state.md R27): data `y`, `e` and the status code
`{ill_op, dom_err}` (60_exceptions.md R141). -/
structure Result where
  y : Word64
  e : Word32
  domErr : Bool
  illOp : Bool
  deriving DecidableEq, Repr

/-- A result with its valid bit: one pipeline stage (`v_i`, `y_i`, `e_i`, `dom_err_i`, `ill_op_i`,
10_state.md R31), or the output ports (`out_valid`, `y`, `e`, `dom_err`, `ill_op`, R27). -/
structure Slot where
  valid : Bool
  res : Result
  deriving DecidableEq, Repr

/-- What the host drives on the input ports in one clock cycle (10_state.md R26).  The port `clk` is
the step itself: one step is one cycle, ended by its rising edge (notes/assumptions/4.md). -/
structure InPorts where
  rst : Bool
  inValid : Bool
  op : OpField
  x : Word64
  k : Word32
  deriving DecidableEq, Repr

/-- A cycle in which the host presents nothing and does not reset (10_state.md R29; the field values
are ignored, notes/assumptions/5.md). -/
def InPorts.idle : InPorts := { rst := false, inValid := false, op := 0, x := 0, k := 0 }

/-- The names of the status codes (60_exceptions.md R141). -/
inductive Status where
  | ok
  | domain
  | illegal
  deriving DecidableEq, Repr

/-- The machine. -/
structure State where
  /-- The build-time parameters (10_state.md R24). -/
  cfg : Config
  /-- The input ports in the cycle the next step runs (R26). -/
  inp : InPorts
  /-- What the host drives in the cycles after it, oldest first; an idle cycle where it is empty. -/
  queue : List InPorts
  /-- Stages 1 to `P_LATENCY`, stage 1 first (R31); none when `P_LATENCY = 0`. -/
  pipe : List Slot
  /-- The output ports in the cycle the last step ran (R27). -/
  out : Slot
  /-- The model's own counter of draws: it makes each `ANY` a fresh free value. -/
  draws : Nat
  deriving DecidableEq, Repr

/-- Why the machine stops.  The block never does (60_exceptions.md R140: it raises no synchronous
exception and never traps; R144, R146), so there is no constructor. -/
inductive Fault where
  deriving DecidableEq, Repr

/-- Why an operation has no meaning. -/
inductive Refusal where
  /-- Raised by an arm of `exec` for an operation without a meaning; no arm does.  Safe. -/
  | notModelled (mnemonic : String)
  deriving DecidableEq, Repr

/-- Outputs that are `ANY_64`, `ANY_32`, `ANY_1`, `ANY_1` (10_state.md R30). -/
def anyResult (d : DrawSite) (n : Nat) : Result :=
  { y := Config.anyY d n, e := Config.anyE d n, domErr := Config.anyDomErr d n,
    illOp := Config.anyIllOp d n }

/-- The stages after a reset edge: every valid bit 0, the data not defined (10_state.md R32,
70_reset_and_hazards.md R171, R172). -/
def clearedStages (latency n : Nat) : List Slot :=
  (List.range latency).map fun i => { valid := false, res := anyResult (.resetStage i) n }

/-- A build right after a reset edge, with nothing presented (10_state.md R32).  The output ports
show `out_valid = 0` and `ANY` data (R30).  With a pipeline that 0 is R32's; without one R32 makes
`out_valid` equal `in_valid`, which is 0 here by DESIGN CHOICE (notes/assumptions/5.md). -/
def State.resetOf (c : Config) : State :=
  { cfg := c
    inp := .idle
    queue := []
    pipe := clearedStages c.latency 0
    out := { valid := false, res := anyResult .idlePorts 0 }
    draws := 1 }

/-- The machine right after reset, in the default build (00_scope.md R10 to R12). -/
def State.reset : State := State.resetOf Config.specDefault

/-- A build before its first reset (70_reset_and_hazards.md R173).  With a pipeline its valid bits,
`out_valid` and all data are unspecified: free values.  DESIGN CHOICE (notes/assumptions/10.md): no
cycle has run yet, so `out` is what the ports carried before the first one; without a pipeline it is
as after reset, and the host has presented nothing. -/
def State.powerOn (c : Config) : State :=
  { State.resetOf c with
    pipe := (List.range c.latency).map fun i =>
      { valid := Config.anyValid (.powerOn i) 0, res := anyResult (.powerOn i) 0 }
    out :=
      { valid := c.latency != 0 && Config.anyValid .powerOnPorts 0
        res := anyResult .powerOnPorts 0 } }

end Sys2Proof.Machine
end

