-- ==== Sys2Proof/Machine/Operands.lean ====
section
/-! DEFINITION. The fields of a binary64 and a binary32 pattern, the operand classes, the zero tests
and the domain (40_binary_formats.md R70, R73, R74, R75, R76, R79, R81; 00_scope.md R9, R13). -/

namespace Sys2Proof.Machine

/-! ## Classes -/

/-- The class of a pattern from its exponent and fraction fields, where `emax` is the all-ones
exponent (R73; R81 with 255). -/
def classOf (emax expo frac : Nat) : FpClass :=
  if expo = 0 then (if frac = 0 then .zero else .subnormal)
  else if expo = emax then (if frac = 0 then .inf else .nan)
  else .normal

/-- Whether a class is out of the domain (R76). -/
def isOod : FpClass → Bool
  | .zero => false
  | .normal => false
  | .subnormal => true
  | .inf => true
  | .nan => true

/-! ## binary64 -/

/-- `s(x) = x[63]` (R70). -/
def sign64 (x : Word64) : BitVec 1 := x.extractLsb' 63 1

/-- `x[62:52]` (R70). -/
def expField64 (x : Word64) : BitVec 11 := x.extractLsb' 52 11

/-- `x[51:0]` (R70). -/
def fracField64 (x : Word64) : BitVec 52 := x.extractLsb' 0 52

/-- `E(x)` (R70). -/
def exp64 (x : Word64) : Nat := (expField64 x).toNat

/-- `f(x)` (R70). -/
def frac64 (x : Word64) : Nat := (fracField64 x).toNat

/-- Sign, exponent field and fraction put together (R9). -/
def pack64 (s : BitVec 1) (e : BitVec 11) (f : BitVec 52) : Word64 := s ++ e ++ f

/-- The class of a binary64 pattern (R73). -/
def class64 (x : Word64) : FpClass := classOf 2047 (exp64 x) (frac64 x)

/-- `IsZero64(x) = (x[62:0] = 0)` (R74). -/
def isZero64 (x : Word64) : Bool := x.extractLsb' 0 63 == 0#63

/-- Negation flips bit 63 and changes no other bit (R75). -/
def neg64 (x : Word64) : Word64 := x ^^^ 0x8000000000000000#64

/-! ## binary32 -/

/-- The binary32 operand of a port word: `x[31:0]` (20_memory.md R42). -/
def low32 (x : Word64) : Word32 := x.extractLsb' 0 32

/-- A binary32 result on the port: `y[31:0]`, with `y[63:32]` driven 0 (20_memory.md R42). -/
def onPort32 (y : Word32) : Word64 := 0#32 ++ y

/-- `s32(x) = x[31]` (R79). -/
def sign32 (x : Word32) : BitVec 1 := x.extractLsb' 31 1

/-- `x[30:23]` (R79). -/
def expField32 (x : Word32) : BitVec 8 := x.extractLsb' 23 8

/-- `x[22:0]` (R79). -/
def fracField32 (x : Word32) : BitVec 23 := x.extractLsb' 0 23

/-- `E32(x)` (R79). -/
def exp32 (x : Word32) : Nat := (expField32 x).toNat

/-- `f32(x)` (R79). -/
def frac32 (x : Word32) : Nat := (fracField32 x).toNat

/-- Sign, exponent field and fraction put together (R13). -/
def pack32 (s : BitVec 1) (e : BitVec 8) (f : BitVec 23) : Word32 := s ++ e ++ f

/-- The class of a binary32 pattern (R81). -/
def class32 (x : Word32) : FpClass := classOf 255 (exp32 x) (frac32 x)

/-- `IsZero32(x) = (x[30:0] = 0)` (R81). -/
def isZero32 (x : Word32) : Bool := x.extractLsb' 0 31 == 0#31

end Sys2Proof.Machine
end

