-- ==== Sys2Proof/Machine/Flags.lean ====
section
/-! DEFINITION. The status bits.  The block stores no flag (10_state.md R23) and has no IEEE-754
exception flag (40_binary_formats.md R82, 60_exceptions.md R143); each result carries `dom_err` and
`ill_op` (60_exceptions.md R141). -/

namespace Sys2Proof.Machine

/-- `dom_err` of FREXP64 and LDEXP64: the operand is out of the domain (40_binary_formats.md R77). -/
def domErr64 (x : Word64) : Bool := isOod (class64 x)

/-- `dom_err` of FREXP32 and LDEXP32 (R77, R81). -/
def domErr32 (x : Word32) : Bool := isOod (class32 x)

/-- The name of a result's status code (60_exceptions.md R141); the fourth code has none and is
never produced. -/
def Result.status (r : Result) : Option Status :=
  match r.illOp, r.domErr with
  | false, false => some .ok
  | false, true => some .domain
  | true, false => some .illegal
  | true, true => none

end Sys2Proof.Machine
end

