-- ==== Sys2Proof/Machine/Ops.lean ====
section
/-! DEFINITION. The shared operations: what one clock cycle does to the ports and the pipeline
(10_state.md R28 to R31, 70_reset_and_hazards.md R170 to R179), and how an operation's outputs are
driven (40_binary_formats.md R78, 30_encoding.md R56).  There is no exception to take
(60_exceptions.md R140, R146): the ILLEGAL result stands in its place. -/

namespace Sys2Proof.Machine

/-! ## Driving the outputs of one operation -/

/-- The outputs of an operation the configuration has (R77, R78): the data of its steps, except that
an out-of-domain operand of an `UNSPECIFIED` build gives the free data; `dom_err` says which. -/
def drive (p : OodData) (ood : Bool) (steps free : Word64 × Word32) : Result :=
  match ood, p with
  | true, .unspecified => { y := free.1, e := free.2, domErr := true, illOp := false }
  | true, .literal => { y := steps.1, e := steps.2, domErr := true, illOp := false }
  | false, _ => { y := steps.1, e := steps.2, domErr := false, illOp := false }

/-- The outputs of an ILLEGAL operation (30_encoding.md R56, 60_exceptions.md R142). -/
def illegalResult : Result := { y := 0, e := 0, domErr := false, illOp := true }

/-! ## One clock cycle -/

/-- The operation word on the input ports (30_encoding.md R51). -/
def InPorts.opw (p : InPorts) : Opw := Sys2Proof.opw p.op p.k p.x

/-- The ports of a cycle that presents the operation word `w` (10_state.md R26, R29). -/
def InPorts.presenting (w : Opw) : InPorts :=
  { rst := false, inValid := true, op := opOf w, x := xOf w, k := kOf w }

/-- The host's input for the next cycle comes onto the ports. -/
def State.nextInputs (s : State) : State :=
  match s.queue with
  | [] => { s with inp := .idle }
  | p :: q => { s with inp := p, queue := q }

/-- Whether this cycle ends in a reset edge: only a build with a pipeline has one (R170, R171). -/
def State.resets (s : State) : Bool := s.cfg.latency != 0 && s.inp.rst

/-- The operation accepted in this cycle, if any (10_state.md R29). -/
def State.accepted (s : State) : Option Instr :=
  if s.inp.inValid && !s.resets then some (decode s.inp.opw) else none

/-- The place `P_LATENCY` cycles behind the input: `entering` itself when there is no pipeline, else
stage `P_LATENCY` (R31, R175). -/
def State.lastStage (s : State) (entering : Slot) : Slot :=
  ((entering :: s.pipe)[s.cfg.latency]?).getD
    { valid := false, res := anyResult .idlePorts s.draws }

/-- What the output ports carry for the slot they show: `ANY` data when it is not valid (R30). -/
def shown (slot : Slot) (n : Nat) : Slot :=
  if slot.valid then slot else { valid := false, res := anyResult .idlePorts n }

/-- One cycle without a reset edge, in which `entering` is what the inputs give (R28, R31, R175). -/
def State.clock (s : State) (entering : Slot) : State :=
  { s with
    out := shown (s.lastStage entering) s.draws
    pipe := (entering :: s.pipe).take s.cfg.latency
    draws := s.draws + 1 }

/-- A cycle that accepts an operation whose outputs are `r` (R29, R177). -/
def State.accept (s : State) (r : Result) : State := s.clock { valid := true, res := r }

/-- What enters in a cycle that accepts nothing: valid bit 0, data not defined (R29 to R31). -/
def State.bubble (s : State) : Slot :=
  { valid := false, res := anyResult .idleStage s.draws }

/-- A cycle that accepts nothing (R29, R30, 60_exceptions.md R153). -/
def State.idleCycle (s : State) : State := s.clock s.bubble

/-- A cycle that ends in a reset edge (R170 to R172, R179): the ports show stage `P_LATENCY` as it
stands before the edge (notes/assumptions/7.md); the edge clears every valid bit. -/
def State.resetEdge (s : State) : State :=
  { s with
    out := shown (s.lastStage s.bubble) s.draws
    pipe := clearedStages s.cfg.latency s.draws
    draws := s.draws + 1 }

end Sys2Proof.Machine
end

