-- ==== Sys2Proof/Machine/Decompose.lean ====
section
/-! DEFINITION. The unit `ieee754_frexp_decomposer`: FREXP64 and FREXP32 (41_decompose.md). -/

namespace Sys2Proof.Machine

/-! ## FREXP64 -/

/-- The steps of R90, taken as written for every operand: zero gives (+0.0, 0) (R91), any other
pattern keeps its sign and fraction under exponent field 1022 (R92), with exponent
`E(x) - 1023 + 1` (R93).  R95 applies the same steps to an out-of-domain operand. -/
def frexp64Steps (x : Word64) : Word64 × Word32 :=
  if isZero64 x then (0#64, 0#32)
  else (pack64 (sign64 x) 0x3FE#11 (fracField64 x), BitVec.ofInt 32 ((exp64 x : Int) - 1023 + 1))

/-- The unspecified data of an out-of-domain FREXP64: `ANY_64` and `ANY_32` (40_binary_formats.md
R78).  They depend on the build and `x` alone, not on `k` (R97) nor on what ran before (20_memory.md
R44). -/
def frexp64Free (c : Config) (x : Word64) : Word64 × Word32 :=
  (c.oodY 0b00#2 x 0, c.oodE 0b00#2 x 0)

/-- The outputs of FREXP64 (R90). -/
def frexp64Result (c : Config) (x : Word64) : Result :=
  drive c.oodData (domErr64 x) (frexp64Steps x) (frexp64Free c x)

/-- FREXP64 (R90): it never reads `k` (R97). -/
def execFrexp64 (x : Word64) (_k : Word32) (s : State) : Host.Outcome State Fault Refusal :=
  .next (s.accept (frexp64Result s.cfg x))

/-! ## FREXP32 -/

/-- The steps of R100, taken as written for every operand (R101, R102, R103). -/
def frexp32Steps (x : Word32) : Word64 × Word32 :=
  if isZero32 x then (onPort32 0#32, 0#32)
  else (onPort32 (pack32 (sign32 x) 0x7E#8 (fracField32 x)),
    BitVec.ofInt 32 ((exp32 x : Int) - 127 + 1))

/-- The unspecified data of an out-of-domain FREXP32: `y[31:0]` and `e` are any value, `y[63:32]` is
0 (40_binary_formats.md R78). -/
def frexp32Free (c : Config) (x : Word32) : Word64 × Word32 :=
  (onPort32 (low32 (c.oodY 0b10#2 (onPort32 x) 0)), c.oodE 0b10#2 (onPort32 x) 0)

/-- The outputs of FREXP32 (R100); ILLEGAL when the build has no binary32 (30_encoding.md R56). -/
def frexp32Result (c : Config) (x : Word32) : Result :=
  if c.hasBinary32 then drive c.oodData (domErr32 x) (frexp32Steps x) (frexp32Free c x)
  else illegalResult

/-- FREXP32 (R100): it reads `x[31:0]` alone. -/
def execFrexp32 (x : Word64) (_k : Word32) (s : State) : Host.Outcome State Fault Refusal :=
  .next (s.accept (frexp32Result s.cfg (low32 x)))

end Sys2Proof.Machine
end

