-- ==== Sys2Proof/Machine/Recompose.lean ====
section
/-! DEFINITION. The unit `ieee754_ldexp_recomposer`: LDEXP64 and LDEXP32 (42_recompose.md). -/

namespace Sys2Proof.Machine

/-- The new biased exponent `n = E + k`, an exact integer (R113, R114, R121). -/
def newExp (expo : Nat) (k : Word32) : Int := (expo : Int) + k.toInt

/-! ## LDEXP64 -/

/-- The steps of R110's in-domain branch, taken as written for every operand: zero or `k = 0` gives
`x` (R111), `n` outside [0, 2047] gives signed infinity (R115), else the exponent field becomes `n`
(R116, R117, R118).  R126 applies the same steps to an out-of-domain operand. -/
def ldexp64Steps (x : Word64) (k : Word32) : Word64 :=
  if isZero64 x || k == 0#32 then x
  else if newExp (exp64 x) k < 0 ∨ newExp (exp64 x) k > 2047 then pack64 (sign64 x) 0x7FF#11 0#52
  else pack64 (sign64 x) (BitVec.ofInt 11 (newExp (exp64 x) k)) (fracField64 x)

/-- The unspecified data of an out-of-domain LDEXP64: `y` is any value, `e` is 0
(40_binary_formats.md R78, R129). -/
def ldexp64Free (c : Config) (x : Word64) (k : Word32) : Word64 × Word32 :=
  (c.oodY 0b01#2 x k, 0#32)

/-- The outputs of LDEXP64 (R110, R129). -/
def ldexp64Result (c : Config) (x : Word64) (k : Word32) : Result :=
  drive c.oodData (domErr64 x) (ldexp64Steps x k, 0#32) (ldexp64Free c x k)

/-- LDEXP64 (R110). -/
def execLdexp64 (x : Word64) (k : Word32) (s : State) : Host.Outcome State Fault Refusal :=
  .next (s.accept (ldexp64Result s.cfg x k))

/-! ## LDEXP32 -/

/-- The steps of R120's in-domain branch, taken as written for every operand (R127). -/
def ldexp32Steps (x : Word32) (k : Word32) : Word32 :=
  if isZero32 x || k == 0#32 then x
  else if newExp (exp32 x) k < 0 ∨ newExp (exp32 x) k > 255 then pack32 (sign32 x) 0xFF#8 0#23
  else pack32 (sign32 x) (BitVec.ofInt 8 (newExp (exp32 x) k)) (fracField32 x)

/-- The unspecified data of an out-of-domain LDEXP32: `y[31:0]` is any value, `y[63:32]` and `e` are
0 (40_binary_formats.md R78, R129). -/
def ldexp32Free (c : Config) (x : Word32) (k : Word32) : Word64 × Word32 :=
  (onPort32 (low32 (c.oodY 0b11#2 (onPort32 x) k)), 0#32)

/-- The outputs of LDEXP32 (R120, R129); ILLEGAL when the build has no binary32 (30_encoding.md
R56). -/
def ldexp32Result (c : Config) (x : Word32) (k : Word32) : Result :=
  if c.hasBinary32 then
    drive c.oodData (domErr32 x) (onPort32 (ldexp32Steps x k), 0#32) (ldexp32Free c x k)
  else illegalResult

/-- LDEXP32 (R120): it reads `x[31:0]` and `k`. -/
def execLdexp32 (x : Word64) (k : Word32) (s : State) : Host.Outcome State Fault Refusal :=
  .next (s.accept (ldexp32Result s.cfg (low32 x) k))

end Sys2Proof.Machine
end

