-- ==== Sys2Proof/Machine/Dispatch.lean ====
section
/-! DEFINITION. The meaning of each operation, one arm per constructor of `Instr`. -/

namespace Sys2Proof.Machine

/-- The cycle that accepts the operation `i`. -/
def exec (i : Instr) (s : State) : Host.Outcome State Fault Refusal :=
  match i with
  | .frexp64 x k => Sys2Proof.Machine.execFrexp64 x k s
  | .ldexp64 x k => Sys2Proof.Machine.execLdexp64 x k s
  | .frexp32 x k => Sys2Proof.Machine.execFrexp32 x k s
  | .ldexp32 x k => Sys2Proof.Machine.execLdexp32 x k s

end Sys2Proof.Machine
end

