-- ==== Sys2Proof/Machine/Step.lean ====
section
/-! DEFINITION. One step of the machine: one clock cycle (70_reset_and_hazards.md R175). -/

namespace Sys2Proof.Machine

/-- One clock cycle.  A reset edge accepts nothing (R171); else the operation on the ports is
accepted if `in_valid = 1` (10_state.md R29); else the cycle is idle.  The inputs of the next cycle
then stand on the ports. -/
def step (s : State) : Host.Outcome State Fault Refusal :=
  if s.resets then .next s.nextInputs.resetEdge
  else
    match s.accepted with
    | some i => exec i s.nextInputs
    | none => .next s.nextInputs.idleCycle

/-- `s` with the operation word `w` presented on the input ports in the cycle the next step runs
(30_encoding.md R51, 20_memory.md R47: there is no fetch; the operation is supplied on the ports). -/
def State.withFetchWord (s : State) (nbits w : Nat) : State :=
  { s with inp := .presenting (BitVec.ofNat 98 (w % 2 ^ nbits)) }

end Sys2Proof.Machine
end

