-- ==== Sys2Proof/Machine/Values.lean ====
section
/-! DEFINITION. The number a pattern stands for (40_binary_formats.md R71, R72, R80).  No operation
computes it; the spec states its exactness rules (R92, R94, R102, R119, R123) in terms of it. -/

namespace Sys2Proof.Machine

/-- The value of a finite pattern with sign `s`, exponent field `expo` and fraction `frac`, in a
format with exponent bias `bias` and `fw` fraction bits; infinities and NaNs have none.  A subnormal
is `2^(1 - bias - fw) · frac`: -1074 for binary64 (R72), -149 for binary32 (notes/assumptions/8.md). -/
def valueOf (bias fw : Nat) (cls : FpClass) (s : BitVec 1) (expo frac : Nat) : Option ℚ :=
  let sgn : ℚ := if s = 1#1 then -1 else 1
  match cls with
  | .zero => some 0
  | .subnormal => some (sgn * (2 : ℚ) ^ (1 - (bias : ℤ) - fw) * frac)
  | .normal => some (sgn * (2 : ℚ) ^ ((expo : ℤ) - bias) * (1 + frac / 2 ^ fw))
  | .inf => none
  | .nan => none

/-- The value of a binary64 pattern (R71, R72). -/
def value64 (x : Word64) : Option ℚ :=
  valueOf 1023 52 (class64 x) (sign64 x) (exp64 x) (frac64 x)

/-- The value of a binary32 pattern (R80). -/
def value32 (x : Word32) : Option ℚ :=
  valueOf 127 23 (class32 x) (sign32 x) (exp32 x) (frac32 x)

end Sys2Proof.Machine
end

