-- ==== Sys2Proof/Safety.lean ====
section
/-! DEFINITION. The terms the claims are stated in: the slot an operation's outputs enter, and the
invariant that every step keeps. -/

namespace Sys2Proof.Machine

/-- Where the outputs of the cycle just run stand: stage 1 when there is a pipeline (10_state.md
R31), the output ports when there is none (R28). -/
def State.entered (t : State) : Option Slot := (t.pipe ++ [t.out]).head?

/-- A result the block can show with its valid bit set: `ill_op` and `dom_err` are never both 1, and
`ill_op = 1` comes only from a build without binary32, with `y = 0` and `e = 0` (60_exceptions.md
R141, R142). -/
def Result.Lawful (c : Config) (r : Result) : Prop :=
  r.status ≠ none ∧ (r.illOp = true → c.hasBinary32 = false ∧ r.y = 0 ∧ r.e = 0)

/-- The invariant: the pipeline has `P_LATENCY` stages (10_state.md R31), and every valid slot of it
and of the output ports holds a lawful result. -/
def State.Inv (s : State) : Prop :=
  s.pipe.length = s.cfg.latency ∧
    ∀ slot ∈ s.out :: s.pipe, slot.valid = true → slot.res.Lawful s.cfg

end Sys2Proof.Machine
end

