-- ==== Sys2Proof/Certificates/Slice0/Obligations.lean ====
section
/-! DEFINITION. The statements for the provers.

In all of them `t.entered = some ⟨true, r⟩` says that the cycle accepted the operation and that its
outputs are `r`: on the output ports of a build with `P_LATENCY = 0`, in stage 1 of any other
(10_state.md R28, R31).  A field of a pattern is written as the spec's pseudocode writes it:
`x.extractLsb' 63 1` is `x[63]`, `(x.extractLsb' 52 11).toNat` is `E(x)`.  Where the spec writes
`ANY`, the statement says nothing of the value. -/

open Sys2Proof Sys2Proof.Machine

/-! ## Encoding -/

/-- 30_encoding.md R50, R51, R57: no bit of an operation word is dropped in decoding, and every word
is the encoding of exactly one operation. -/
def Obligations.DecodeInvertsEncode : Prop :=
  (∀ i : Instr, decode (encode i) = i) ∧ (∀ w : Opw, encode (decode w) = w)

/-- 30_encoding.md R50: bit `op[0]` selects the function, bit `op[1]` the format, and the column
"exists when". -/
def Obligations.OpFieldSelectsOperation : Prop :=
  ∀ (c : Config) (k : Word32) (x : Word64),
    (decode (0b00#2 ++ k ++ x) = .frexp64 x k ∧ (Instr.frexp64 x k).existsIn c = true) ∧
    (decode (0b01#2 ++ k ++ x) = .ldexp64 x k ∧ (Instr.ldexp64 x k).existsIn c = true) ∧
    (decode (0b10#2 ++ k ++ x) = .frexp32 x k ∧
      ((Instr.frexp32 x k).existsIn c = true ↔ c.hasBinary32 = true)) ∧
    (decode (0b11#2 ++ k ++ x) = .ldexp32 x k ∧
      ((Instr.ldexp32 x k).existsIn c = true ↔ c.hasBinary32 = true))

/-- 30_encoding.md R57: every `OPW` value decodes to exactly one of the four operations or ILLEGAL,
by `op` and `P_HAS_BINARY32` alone. -/
def Obligations.DecoderIsTotalByOpAndOption : Prop :=
  ∀ (c : Config) (w : Opw),
    (((w.getLsbD 97 = true ∧ c.hasBinary32 = false) ↔
      decodeIn c w.toNat = .error (.illegalOp (w.extractLsb' 96 2)))) ∧
    (¬ (w.getLsbD 97 = true ∧ c.hasBinary32 = false) ↔ decodeIn c w.toNat = .ok (decode w))

/-- The operation words of programs P1, P2, P3 and P5 of 95_test_vectors.md section 3 decode to the
operations written beside them. -/
def Obligations.SampleWordsDecode : Prop :=
  decode 0x000000000C008000000000000#98 = .frexp64 0xC008000000000000#64 0#32 ∧
  decode 0x100000002BFE8000000000000#98 = .ldexp64 0xBFE8000000000000#64 2#32 ∧
  decode 0x1FFFFFFFF7FF0000000000000#98 = .ldexp64 0x7FF0000000000000#64 (BitVec.ofInt 32 (-1)) ∧
  decode 0x200000000000000003F800000#98 = .frexp32 0x3F800000#64 0#32 ∧
  decode 0x30000000300000000BF400000#98 = .ldexp32 0xBF400000#64 3#32

/-! ## Formats and classes -/

/-- 40_binary_formats.md R70 and 00_scope.md R9: sign at bit 63, exponent field at bits 62..52,
fraction at bits 51..0 of a binary64 pattern; packing puts them back. -/
def Obligations.Binary64FieldsMakeThePattern : Prop :=
  ∀ x : Word64,
    x.toNat = (sign64 x).toNat * 2 ^ 63 + exp64 x * 2 ^ 52 + frac64 x ∧
    exp64 x ≤ 2047 ∧ frac64 x < 2 ^ 52 ∧
    pack64 (sign64 x) (expField64 x) (fracField64 x) = x

/-- 40_binary_formats.md R79 and 00_scope.md R13, with 20_memory.md R42: the fields of a binary32
pattern, and where it sits on a 64-bit port.  R79 marks the bit positions as derived. -/
def Obligations.Binary32FieldsMakeThePattern : Prop :=
  (∀ x : Word32,
    x.toNat = (sign32 x).toNat * 2 ^ 31 + exp32 x * 2 ^ 23 + frac32 x ∧
    exp32 x ≤ 255 ∧ frac32 x < 2 ^ 23 ∧
    pack32 (sign32 x) (expField32 x) (fracField32 x) = x) ∧
  (∀ x : Word64, (low32 x).toNat = x.toNat % 2 ^ 32) ∧
  (∀ y : Word32, (onPort32 y).toNat = y.toNat)

/-- 40_binary_formats.md R73 and R74: the class of every binary64 pattern, and the zero test. -/
def Obligations.ClassOfEveryBinary64Pattern : Prop :=
  ∀ x : Word64,
    (class64 x = .zero ↔ exp64 x = 0 ∧ frac64 x = 0) ∧
    (class64 x = .subnormal ↔ exp64 x = 0 ∧ frac64 x ≠ 0) ∧
    (class64 x = .normal ↔ 1 ≤ exp64 x ∧ exp64 x ≤ 2046) ∧
    (class64 x = .inf ↔ exp64 x = 2047 ∧ frac64 x = 0) ∧
    (class64 x = .nan ↔ exp64 x = 2047 ∧ frac64 x ≠ 0) ∧
    (isZero64 x = true ↔ x.extractLsb' 0 63 = 0#63) ∧
    (isZero64 x = true ↔ x = 0x0000000000000000#64 ∨ x = 0x8000000000000000#64) ∧
    (isZero64 x = true ↔ class64 x = .zero)

/-- The binary32 classes and zero test, which 40_binary_formats.md R81 marks as derived from R73 and
R74 by scaling. -/
def Obligations.ClassOfEveryBinary32Pattern : Prop :=
  ∀ x : Word32,
    (class32 x = .zero ↔ exp32 x = 0 ∧ frac32 x = 0) ∧
    (class32 x = .subnormal ↔ exp32 x = 0 ∧ frac32 x ≠ 0) ∧
    (class32 x = .normal ↔ 1 ≤ exp32 x ∧ exp32 x ≤ 254) ∧
    (class32 x = .inf ↔ exp32 x = 255 ∧ frac32 x = 0) ∧
    (class32 x = .nan ↔ exp32 x = 255 ∧ frac32 x ≠ 0) ∧
    (isZero32 x = true ↔ x = 0x00000000#32 ∨ x = 0x80000000#32) ∧
    (isZero32 x = true ↔ class32 x = .zero)

/-- 40_binary_formats.md R75: negation flips bit 63 and no other, it negates the value of a finite
pattern, and a negative mantissa of FREXP64 is the negation of the positive one.  R75 marks the
mechanism as general knowledge. -/
def Obligations.NegationFlipsOnlyTheSign : Prop :=
  ∀ x : Word64,
    (neg64 x).getLsbD 63 = !x.getLsbD 63 ∧
    (∀ j, j < 63 → (neg64 x).getLsbD j = x.getLsbD j) ∧
    value64 (neg64 x) = (value64 x).map (fun v => -v) ∧
    ∀ (k : Word32) (s : State), class64 x = .normal →
      ∃ t y e, exec (.frexp64 x k) s = .next t ∧ t.entered = some ⟨true, ⟨y, e, false, false⟩⟩ ∧
        y = if x.getLsbD 63 then neg64 (0#1 ++ 0x3FE#11 ++ x.extractLsb' 0 52)
            else 0#1 ++ 0x3FE#11 ++ x.extractLsb' 0 52

/-! ## Decompose -/

/-- 41_decompose.md R90, R91: the outputs of FREXP64 for every operand in every state.  For an
out-of-domain operand of an `UNSPECIFIED` build the data are `ANY`. -/
def Obligations.Frexp64Result : Prop :=
  ∀ (x : Word64) (k : Word32) (s : State),
    (x.extractLsb' 0 63 = 0#63 →
      ∃ t, exec (.frexp64 x k) s = .next t ∧
        t.entered = some ⟨true, ⟨0x0000000000000000#64, 0x00000000#32, false, false⟩⟩) ∧
    (class64 x = .normal →
      ∃ t, exec (.frexp64 x k) s = .next t ∧
        t.entered = some ⟨true,
          ⟨x.extractLsb' 63 1 ++ 0x3FE#11 ++ x.extractLsb' 0 52,
            BitVec.ofInt 32 (((x.extractLsb' 52 11).toNat : Int) - 1022), false, false⟩⟩) ∧
    (class64 x = .subnormal ∨ class64 x = .inf ∨ class64 x = .nan →
      ∃ t r, exec (.frexp64 x k) s = .next t ∧ t.entered = some ⟨true, r⟩ ∧
        r.domErr = true ∧ r.illOp = false ∧
        (s.cfg.oodData = .literal →
          r.y = x.extractLsb' 63 1 ++ 0x3FE#11 ++ x.extractLsb' 0 52 ∧
          r.e = BitVec.ofInt 32 (((x.extractLsb' 52 11).toNat : Int) - 1022)))

/-- The exponent of a NORMAL operand does not wrap: `e = E(x) - 1022` as an integer, between -1021 and
1024.  41_decompose.md R93 marks the range as derived from R70 and R73. -/
def Obligations.Frexp64ExponentDoesNotWrap : Prop :=
  ∀ (x : Word64) (k : Word32) (s : State), class64 x = .normal →
    ∃ t r, exec (.frexp64 x k) s = .next t ∧ t.entered = some ⟨true, r⟩ ∧
      r.e.toInt = (exp64 x : Int) - 1022 ∧ -1021 ≤ r.e.toInt ∧ r.e.toInt ≤ 1024

/-- The mantissa of a NORMAL operand lies in [0.5, 1.0): `|val(y)| = 2^-1 · (1 + f/2^52)`.
41_decompose.md R92 marks the range as derived from R71. -/
def Obligations.Frexp64MantissaInHalfToOne : Prop :=
  ∀ (x : Word64) (k : Word32) (s : State), class64 x = .normal →
    ∃ t r v, exec (.frexp64 x k) s = .next t ∧ t.entered = some ⟨true, r⟩ ∧
      value64 r.y = some v ∧ |v| = (1 / 2) * (1 + (frac64 x : ℚ) / 2 ^ 52) ∧
      1 / 2 ≤ |v| ∧ |v| < 1 ∧ r.y.getLsbD 63 = x.getLsbD 63

/-- FREXP64 is exact: `val(x) = val(y) · 2^e` for every NORMAL operand, the sentence 41_decompose.md
R94 marks as derived from R92 and R93. -/
def Obligations.Frexp64IsExact : Prop :=
  ∀ (x : Word64) (k : Word32) (s : State), class64 x = .normal →
    ∃ t r vx vy, exec (.frexp64 x k) s = .next t ∧ t.entered = some ⟨true, r⟩ ∧
      value64 x = some vx ∧ value64 r.y = some vy ∧ vx = vy * (2 : ℚ) ^ r.e.toInt

/-- FREXP64 of an out-of-domain operand in a `LITERAL` build, class by class: the outcomes
41_decompose.md R95 marks as derived from the pseudocode of R90. -/
def Obligations.Frexp64LiteralOutcomes : Prop :=
  ∀ (x : Word64) (k : Word32) (s : State), s.cfg.oodData = .literal →
    isOod (class64 x) = true →
    ∃ t r, exec (.frexp64 x k) s = .next t ∧ t.entered = some ⟨true, r⟩ ∧
      r.domErr = true ∧ r.illOp = false ∧
      (class64 x = .subnormal → r.e.toInt = -1022 ∧
        ∃ v, value64 r.y = some v ∧ 1 / 2 ≤ |v| ∧ |v| < 1) ∧
      (class64 x = .inf → r.e.toInt = 1025 ∧
        r.y = if x.getLsbD 63 then 0xBFE0000000000000#64 else 0x3FE0000000000000#64) ∧
      (class64 x = .nan → r.e.toInt = 1025 ∧
        ∃ v, value64 r.y = some v ∧ 1 / 2 < |v| ∧ |v| < 1)

/-- The outputs of FREXP32 for every operand, in every state of a build that has it
(41_decompose.md R100, R101, R103, with constants the spec marks as derived by scaling).  For an
out-of-domain operand of an `UNSPECIFIED` build `y[31:0]` and `e` are `ANY`. -/
def Obligations.Frexp32Result : Prop :=
  ∀ (x : Word64) (k : Word32) (s : State), s.cfg.hasBinary32 = true →
    (x.extractLsb' 0 31 = 0#31 →
      ∃ t, exec (.frexp32 x k) s = .next t ∧
        t.entered = some ⟨true, ⟨0#64, 0#32, false, false⟩⟩) ∧
    (class32 (x.extractLsb' 0 32) = .normal →
      ∃ t, exec (.frexp32 x k) s = .next t ∧
        t.entered = some ⟨true,
          ⟨0#32 ++ (x.extractLsb' 31 1 ++ 0x7E#8 ++ x.extractLsb' 0 23 : Word32),
            BitVec.ofInt 32 (((x.extractLsb' 23 8).toNat : Int) - 126), false, false⟩⟩) ∧
    (isOod (class32 (x.extractLsb' 0 32)) = true →
      ∃ t r, exec (.frexp32 x k) s = .next t ∧ t.entered = some ⟨true, r⟩ ∧
        r.domErr = true ∧ r.illOp = false ∧ r.y.extractLsb' 32 32 = 0#32 ∧
        (s.cfg.oodData = .literal →
          r.y = 0#32 ++ (x.extractLsb' 31 1 ++ 0x7E#8 ++ x.extractLsb' 0 23 : Word32) ∧
          r.e = BitVec.ofInt 32 (((x.extractLsb' 23 8).toNat : Int) - 126)))

/-- FREXP32 of a NORMAL operand: the mantissa lies in [0.5, 1.0), the exponent between -125 and 128,
and the value is exact.  41_decompose.md R102 marks the whole sentence as derived from R100. -/
def Obligations.Frexp32IsExactInRange : Prop :=
  ∀ (x : Word64) (k : Word32) (s : State), s.cfg.hasBinary32 = true →
    class32 (x.extractLsb' 0 32) = .normal →
    ∃ t r vx vy, exec (.frexp32 x k) s = .next t ∧ t.entered = some ⟨true, r⟩ ∧
      value32 (x.extractLsb' 0 32) = some vx ∧ value32 (r.y.extractLsb' 0 32) = some vy ∧
      1 / 2 ≤ |vy| ∧ |vy| < 1 ∧ -125 ≤ r.e.toInt ∧ r.e.toInt ≤ 128 ∧
      vx = vy * (2 : ℚ) ^ r.e.toInt

/-! ## Recompose -/

/-- 42_recompose.md R110, R129: the outputs of LDEXP64 for every operand in every state.  For an
out-of-domain operand of an `UNSPECIFIED` build `y` is `ANY`. -/
def Obligations.Ldexp64Result : Prop :=
  ∀ (x : Word64) (k : Word32) (s : State),
    ∃ t r, exec (.ldexp64 x k) s = .next t ∧ t.entered = some ⟨true, r⟩ ∧
      r.illOp = false ∧ r.e = 0#32 ∧
      (r.domErr = true ↔ class64 x = .subnormal ∨ class64 x = .inf ∨ class64 x = .nan) ∧
      (r.domErr = false ∨ s.cfg.oodData = .literal →
        r.y =
          if x.extractLsb' 0 63 = 0#63 ∨ k.toInt = 0 then x
          else if ((x.extractLsb' 52 11).toNat : Int) + k.toInt < 0 ∨
              ((x.extractLsb' 52 11).toNat : Int) + k.toInt > 2047 then
            x.extractLsb' 63 1 ++ 0x7FF#11 ++ 0#52
          else x.extractLsb' 63 1 ++
            BitVec.ofInt 11 (((x.extractLsb' 52 11).toNat : Int) + k.toInt) ++
            x.extractLsb' 0 52)

/-- 42_recompose.md R111: a zero operand or `k = 0` gives `x` bit for bit, for every in-domain
operand. -/
def Obligations.Ldexp64NoOpCases : Prop :=
  ∀ (x : Word64) (k : Word32) (s : State), isOod (class64 x) = false →
    isZero64 x = true ∨ k = 0#32 →
    ∃ t r, exec (.ldexp64 x k) s = .next t ∧ t.entered = some ⟨true, r⟩ ∧ r.y = x

/-- 42_recompose.md R115: an exponent out of range, on either side, gives infinity of the operand's
sign. -/
def Obligations.Ldexp64SaturatesOnBothSides : Prop :=
  ∀ (x : Word64) (k : Word32) (s : State), class64 x = .normal →
    (exp64 x : Int) + k.toInt < 0 ∨ (exp64 x : Int) + k.toInt > 2047 →
    ∃ t r, exec (.ldexp64 x k) s = .next t ∧ t.entered = some ⟨true, r⟩ ∧
      (x.getLsbD 63 = false → r.y = 0x7FF0000000000000#64) ∧
      (x.getLsbD 63 = true → r.y = 0xFFF0000000000000#64)

/-- 42_recompose.md R116: an exponent in range replaces the exponent field and nothing else. -/
def Obligations.Ldexp64ReplacesOnlyTheExponent : Prop :=
  ∀ (x : Word64) (k : Word32) (s : State), class64 x = .normal →
    0 ≤ (exp64 x : Int) + k.toInt → (exp64 x : Int) + k.toInt ≤ 2047 →
    ∃ t r, exec (.ldexp64 x k) s = .next t ∧ t.entered = some ⟨true, r⟩ ∧
      r.y = x.extractLsb' 63 1 ++ BitVec.ofInt 11 ((exp64 x : Int) + k.toInt) ++
        x.extractLsb' 0 52 ∧
      (exp64 r.y : Int) = (exp64 x : Int) + k.toInt ∧
      r.y.getLsbD 63 = x.getLsbD 63 ∧ fracField64 r.y = fracField64 x

/-- 42_recompose.md R117: the exponent landing on 2047 is not a special case; with a non-zero
fraction the result is a NaN pattern, with `dom_err = 0`. -/
def Obligations.Ldexp64ExponentLandsOn2047 : Prop :=
  ∀ (x : Word64) (k : Word32) (s : State), class64 x = .normal →
    (exp64 x : Int) + k.toInt = 2047 →
    ∃ t r, exec (.ldexp64 x k) s = .next t ∧ t.entered = some ⟨true, r⟩ ∧
      r.domErr = false ∧ r.y = x.extractLsb' 63 1 ++ 0x7FF#11 ++ x.extractLsb' 0 52 ∧
      (frac64 x = 0 → r.y = x.extractLsb' 63 1 ++ 0x7FF#11 ++ 0#52 ∧ class64 r.y = .inf) ∧
      (frac64 x ≠ 0 → class64 r.y = .nan)

/-- The exponent landing on 0 gives a zero or subnormal pattern that drops the implicit leading 1, so
it is not `val(x) · 2^k`: the sentences 42_recompose.md R118 marks as derived from R116. -/
def Obligations.Ldexp64ExponentLandsOnZero : Prop :=
  ∀ (x : Word64) (k : Word32) (s : State), class64 x = .normal →
    (exp64 x : Int) + k.toInt = 0 →
    ∃ t r vx vy, exec (.ldexp64 x k) s = .next t ∧ t.entered = some ⟨true, r⟩ ∧
      r.domErr = false ∧ r.y = x.extractLsb' 63 1 ++ 0x000#11 ++ x.extractLsb' 0 52 ∧
      value64 x = some vx ∧ value64 r.y = some vy ∧
      vy = (-1) ^ (sign64 x).toNat * (2 : ℚ) ^ (-1074 : ℤ) * frac64 x ∧
      vx * (2 : ℚ) ^ k.toInt =
        (-1) ^ (sign64 x).toNat * (2 : ℚ) ^ (-1023 : ℤ) * (1 + frac64 x / 2 ^ 52) ∧
      vy ≠ vx * (2 : ℚ) ^ k.toInt

/-- Where the new exponent is NORMAL, LDEXP64 multiplies by `2^k` exactly: the sentence
42_recompose.md R119 marks as derived from R116 and R71. -/
def Obligations.Ldexp64ScalesExactly : Prop :=
  ∀ (x : Word64) (k : Word32) (s : State), class64 x = .normal →
    1 ≤ (exp64 x : Int) + k.toInt → (exp64 x : Int) + k.toInt ≤ 2046 →
    ∃ t r vx vy, exec (.ldexp64 x k) s = .next t ∧ t.entered = some ⟨true, r⟩ ∧
      value64 x = some vx ∧ value64 r.y = some vy ∧ vy = vx * (2 : ℚ) ^ k.toInt

/-- The exponent sum is exact for every int32 `k` (42_recompose.md R113, R114): a 34-bit signed adder
gives it, a wrapping 32-bit adder makes the same saturate-or-not choice, and a wrapping 12-bit adder
does not.  The adders are R114's derived remarks. -/
def Obligations.ExponentSumIsExact : Prop :=
  (∀ (x : Word64) (k : Word32),
    newExp (exp64 x) k = (exp64 x : Int) + k.toInt ∧
    -(2 ^ 31) ≤ newExp (exp64 x) k ∧ newExp (exp64 x) k ≤ 2 ^ 31 + 2046 ∧
    ((expField64 x).zeroExtend 34 + k.signExtend 34).toInt = newExp (exp64 x) k ∧
    (newExp (exp64 x) k < 0 ∨ newExp (exp64 x) k > 2047 ↔
      ((expField64 x).zeroExtend 32 + k).toInt < 0 ∨
      ((expField64 x).zeroExtend 32 + k).toInt > 2047)) ∧
  (∃ (x : Word64) (k : Word32), class64 x = .normal ∧ newExp (exp64 x) k > 2047 ∧
    0 ≤ ((expField64 x).zeroExtend 12 + k.truncate 12).toInt ∧
    ((expField64 x).zeroExtend 12 + k.truncate 12).toInt ≤ 2047)

/-- LDEXP64 of an out-of-domain operand in a `LITERAL` build: the steps of R110's in-domain branch as
42_recompose.md R126 writes them, and outcomes it marks as derived from them. -/
def Obligations.Ldexp64LiteralOutcomes : Prop :=
  ∀ (x : Word64) (k : Word32) (s : State), s.cfg.oodData = .literal →
    isOod (class64 x) = true →
    ∃ t r, exec (.ldexp64 x k) s = .next t ∧ t.entered = some ⟨true, r⟩ ∧
      r.domErr = true ∧ r.illOp = false ∧ r.e = 0#32 ∧
      (k.toInt = 0 → r.y = x) ∧
      (k.toInt ≠ 0 → (exp64 x : Int) + k.toInt < 0 ∨ (exp64 x : Int) + k.toInt > 2047 →
        r.y = x.extractLsb' 63 1 ++ 0x7FF#11 ++ 0#52) ∧
      (k.toInt ≠ 0 → 0 ≤ (exp64 x : Int) + k.toInt → (exp64 x : Int) + k.toInt ≤ 2047 →
        r.y = x.extractLsb' 63 1 ++ BitVec.ofInt 11 ((exp64 x : Int) + k.toInt) ++
          x.extractLsb' 0 52) ∧
      (class64 x = .subnormal → 1 ≤ k.toInt → k.toInt ≤ 2046 →
        class64 r.y = .normal ∧ frac64 r.y = frac64 x) ∧
      (class64 x = .subnormal → k.toInt = 2047 → class64 r.y = .nan) ∧
      (class64 x = .inf ∨ class64 x = .nan → k.toInt > 0 →
        r.y = x.extractLsb' 63 1 ++ 0x7FF#11 ++ 0#52)

/-- The outputs of LDEXP32 for every operand, in every state of a build that has it
(42_recompose.md R120, R121, R127, R129, with constants the spec marks as derived by scaling).  For
an out-of-domain operand of an `UNSPECIFIED` build `y[31:0]` is `ANY`. -/
def Obligations.Ldexp32Result : Prop :=
  ∀ (x : Word64) (k : Word32) (s : State), s.cfg.hasBinary32 = true →
    ∃ t r, exec (.ldexp32 x k) s = .next t ∧ t.entered = some ⟨true, r⟩ ∧
      r.illOp = false ∧ r.e = 0#32 ∧ r.y.extractLsb' 32 32 = 0#32 ∧
      r.domErr = isOod (class32 (x.extractLsb' 0 32)) ∧
      (isOod (class32 (x.extractLsb' 0 32)) = false ∨ s.cfg.oodData = .literal →
        r.y.extractLsb' 0 32 =
          if x.extractLsb' 0 31 = 0#31 ∨ k.toInt = 0 then x.extractLsb' 0 32
          else if ((x.extractLsb' 23 8).toNat : Int) + k.toInt < 0 ∨
              ((x.extractLsb' 23 8).toNat : Int) + k.toInt > 255 then
            x.extractLsb' 31 1 ++ 0xFF#8 ++ 0#23
          else x.extractLsb' 31 1 ++
            BitVec.ofInt 8 (((x.extractLsb' 23 8).toNat : Int) + k.toInt) ++
            x.extractLsb' 0 23)

/-- The three edges of LDEXP32 (the corner cases of 42_recompose.md R120): an exponent out of range
gives signed infinity on both sides, one landing on 255 gives infinity or a NaN pattern, one landing
on 0 gives a zero or subnormal pattern. -/
def Obligations.Ldexp32Edges : Prop :=
  ∀ (x : Word64) (k : Word32) (s : State), s.cfg.hasBinary32 = true →
    class32 (x.extractLsb' 0 32) = .normal →
    ∃ t r, exec (.ldexp32 x k) s = .next t ∧ t.entered = some ⟨true, r⟩ ∧ r.domErr = false ∧
      ((exp32 (low32 x) : Int) + k.toInt < 0 ∨ (exp32 (low32 x) : Int) + k.toInt > 255 →
        r.y = if x.getLsbD 31 then 0xFF800000#64 else 0x7F800000#64) ∧
      ((exp32 (low32 x) : Int) + k.toInt = 255 →
        class32 (low32 r.y) = if frac32 (low32 x) = 0 then .inf else .nan) ∧
      ((exp32 (low32 x) : Int) + k.toInt = 0 →
        class32 (low32 r.y) = if frac32 (low32 x) = 0 then .zero else .subnormal)

/-- Where the new exponent is NORMAL, LDEXP32 multiplies by `2^k` exactly: the sentence
42_recompose.md R123 marks as derived from R120 and R80. -/
def Obligations.Ldexp32ScalesExactly : Prop :=
  ∀ (x : Word64) (k : Word32) (s : State), s.cfg.hasBinary32 = true →
    class32 (x.extractLsb' 0 32) = .normal →
    1 ≤ (exp32 (low32 x) : Int) + k.toInt → (exp32 (low32 x) : Int) + k.toInt ≤ 254 →
    ∃ t r vx vy, exec (.ldexp32 x k) s = .next t ∧ t.entered = some ⟨true, r⟩ ∧
      value32 (low32 x) = some vx ∧ value32 (low32 r.y) = some vy ∧
      vy = vx * (2 : ℚ) ^ k.toInt

/-- 42_recompose.md R129: Recompose drives `e = 0`, for every operand in every build. -/
def Obligations.RecomposeDrivesZeroExponent : Prop :=
  ∀ (x : Word64) (k : Word32) (s : State),
    (∃ t r, exec (.ldexp64 x k) s = .next t ∧ t.entered = some ⟨true, r⟩ ∧ r.e = 0#32) ∧
    (∃ t r, exec (.ldexp32 x k) s = .next t ∧ t.entered = some ⟨true, r⟩ ∧ r.e = 0#32)

/-! ## Round trips -/

/-- FREXP64 and then LDEXP64 of its results gives the operand back, bit for bit, for every NORMAL
operand and whatever the states of the block in the two cycles; a zero comes back as +0.0.
42_recompose.md R128 marks it as derived from R92, R93, R111 and R116. -/
def Obligations.RoundTrip64 : Prop :=
  ∀ (x : Word64) (k : Word32) (s s' : State),
    ∃ t r t' r', exec (.frexp64 x k) s = .next t ∧ t.entered = some ⟨true, r⟩ ∧
      exec (.ldexp64 r.y r.e) s' = .next t' ∧ t'.entered = some ⟨true, r'⟩ ∧
      (class64 x = .normal → r'.y = x ∧ r'.domErr = false) ∧
      (class64 x = .zero → r'.y = 0#64 ∧ r'.domErr = false)

/-- FREXP32 and then LDEXP32 of its results gives the operand back for every NORMAL binary32 operand:
the sentence 42_recompose.md R122 marks as derived from R100 and R120. -/
def Obligations.RoundTrip32 : Prop :=
  ∀ (x : Word64) (k : Word32) (s s' : State),
    s.cfg.hasBinary32 = true → s'.cfg.hasBinary32 = true →
    class32 (x.extractLsb' 0 32) = .normal →
    ∃ t r t' r', exec (.frexp32 x k) s = .next t ∧ t.entered = some ⟨true, r⟩ ∧
      exec (.ldexp32 r.y r.e) s' = .next t' ∧ t'.entered = some ⟨true, r'⟩ ∧
      r'.y.extractLsb' 0 32 = x.extractLsb' 0 32 ∧ r'.y.extractLsb' 32 32 = 0#32

/-! ## Status -/

/-- 30_encoding.md R56, 60_exceptions.md R142: without the binary32 option FREXP32 and LDEXP32 are
ILLEGAL, with fixed outputs that depend on neither `x` nor `k`; with it no operation is. -/
def Obligations.IllegalOperationOutputs : Prop :=
  (∀ (x x' : Word64) (k k' : Word32) (s : State), s.cfg.hasBinary32 = false →
    ∃ t, exec (.frexp32 x k) s = .next t ∧ exec (.ldexp32 x' k') s = .next t ∧
      t.entered = some ⟨true, ⟨0x0000000000000000#64, 0x00000000#32, false, true⟩⟩) ∧
  (∀ (i : Instr) (s : State), s.cfg.hasBinary32 = true →
    ∃ t r, exec i s = .next t ∧ t.entered = some ⟨true, r⟩ ∧ r.illOp = false)

/-- 40_binary_formats.md R76, R77 (with the binary32 classes of R81): `dom_err` is 1 exactly when the
operand is SUBNORMAL, INF or NAN, in every build that has the operation and for every `k`. -/
def Obligations.DomErrMeansOutOfDomain : Prop :=
  ∀ (x : Word64) (k : Word32) (s : State),
    (∃ t r, exec (.frexp64 x k) s = .next t ∧ t.entered = some ⟨true, r⟩ ∧ r.illOp = false ∧
      (r.domErr = true ↔
        (exp64 x = 0 ∧ frac64 x ≠ 0) ∨ exp64 x = 2047)) ∧
    (∃ t r, exec (.ldexp64 x k) s = .next t ∧ t.entered = some ⟨true, r⟩ ∧ r.illOp = false ∧
      (r.domErr = true ↔
        (exp64 x = 0 ∧ frac64 x ≠ 0) ∨ exp64 x = 2047)) ∧
    (s.cfg.hasBinary32 = true →
      (∃ t r, exec (.frexp32 x k) s = .next t ∧ t.entered = some ⟨true, r⟩ ∧ r.illOp = false ∧
        (r.domErr = true ↔
          (exp32 (low32 x) = 0 ∧ frac32 (low32 x) ≠ 0) ∨ exp32 (low32 x) = 255)) ∧
      (∃ t r, exec (.ldexp32 x k) s = .next t ∧ t.entered = some ⟨true, r⟩ ∧ r.illOp = false ∧
        (r.domErr = true ↔
          (exp32 (low32 x) = 0 ∧ frac32 (low32 x) ≠ 0) ∨ exp32 (low32 x) = 255)))

/-- On in-domain operands the one way to a NaN pattern is a Recompose whose exponent lands on the
all-ones value with a non-zero fraction: the sentence 40_binary_formats.md R83 marks as derived from
R90 and R110. -/
def Obligations.NanOnlyFromExponentOverflow : Prop :=
  (∀ (x : Word64) (k : Word32) (s : State), isOod (class64 x) = false →
    (∃ t r, exec (.frexp64 x k) s = .next t ∧ t.entered = some ⟨true, r⟩ ∧
      class64 r.y ≠ .nan) ∧
    (∃ t r, exec (.ldexp64 x k) s = .next t ∧ t.entered = some ⟨true, r⟩ ∧
      (class64 r.y = .nan ↔ (exp64 x : Int) + k.toInt = 2047 ∧ frac64 x ≠ 0))) ∧
  (∀ (x : Word64) (k : Word32) (s : State), s.cfg.hasBinary32 = true →
    isOod (class32 (low32 x)) = false →
    (∃ t r, exec (.frexp32 x k) s = .next t ∧ t.entered = some ⟨true, r⟩ ∧
      class32 (low32 r.y) ≠ .nan) ∧
    (∃ t r, exec (.ldexp32 x k) s = .next t ∧ t.entered = some ⟨true, r⟩ ∧
      (class32 (low32 r.y) = .nan ↔
        (exp32 (low32 x) : Int) + k.toInt = 255 ∧ frac32 (low32 x) ≠ 0)))

/-! ## Independence and frame -/

/-- 30_encoding.md R55 (and 41_decompose.md R97): `k` has no effect on Decompose, and `x[63:32]` none
on the binary32 operations. -/
def Obligations.IgnoredBitsHaveNoEffect : Prop :=
  ∀ (x x' : Word64) (k k' : Word32) (s : State),
    (∃ t, exec (.frexp64 x k) s = .next t ∧ exec (.frexp64 x k') s = .next t) ∧
    (x.extractLsb' 0 32 = x'.extractLsb' 0 32 →
      (∃ t, exec (.frexp32 x k) s = .next t ∧ exec (.frexp32 x' k') s = .next t) ∧
      (∃ t, exec (.ldexp32 x k) s = .next t ∧ exec (.ldexp32 x' k) s = .next t))

/-- 10_state.md R20, 20_memory.md R44 (and R34): the outputs of an operation depend on nothing but its
own inputs and the build, whatever ran before and whatever the operand: the same operation presented
twice gives the same outputs twice.  Of the values the spec calls `ANY` it says only that they are
the same (notes/assumptions/3.md). -/
def Obligations.OutputsDependOnOwnInputsOnly : Prop :=
  ∀ (i : Instr) (s s' : State), s.cfg = s'.cfg →
    ∃ t t' r, exec i s = .next t ∧ exec i s' = .next t' ∧
      t.entered = some ⟨true, r⟩ ∧ t'.entered = some ⟨true, r⟩

/-- The frame of FREXP64, LDEXP64, FREXP32 and LDEXP32 (10_state.md R20, R24, R31): the parameters, the
input ports and the host's coming inputs are unchanged; the older stages move up one place with their
contents, and the ports show what stage `P_LATENCY` held. -/
def Obligations.OperationsChangeNothingElse : Prop :=
  ∀ (i : Instr) (s : State), s.pipe.length = s.cfg.latency →
    ∃ t, exec i s = .next t ∧ t.cfg = s.cfg ∧ t.inp = s.inp ∧ t.queue = s.queue ∧
      t.pipe.length = s.cfg.latency ∧
      (∀ j, j + 1 < s.cfg.latency → t.pipe[j + 1]? = s.pipe[j]?) ∧
      (∀ last, s.pipe.getLast? = some last →
        t.out.valid = last.valid ∧ (last.valid = true → t.out = last))

/-! ## The clock cycle -/

/-- 10_state.md R29, 20_memory.md R47: a step in which an operation is accepted is the decoded
operation's meaning, with the host's next input moved onto the ports.  The last clause, that a host
with no further input neither presents nor resets, is the model's choice
(notes/assumptions/5.md). -/
def Obligations.StepRunsTheDecodedOperation : Prop :=
  ∀ s : State, s.inp.inValid = true → s.cfg.latency = 0 ∨ s.inp.rst = false →
    step s = exec (decode (s.inp.op ++ s.inp.k ++ s.inp.x)) s.nextInputs ∧
    s.nextInputs.cfg = s.cfg ∧ s.nextInputs.pipe = s.pipe ∧ s.nextInputs.out = s.out ∧
    s.nextInputs.draws = s.draws ∧
    (∀ p q, s.queue = p :: q → s.nextInputs.inp = p ∧ s.nextInputs.queue = q) ∧
    (s.queue = [] → s.nextInputs.inp.inValid = false ∧ s.nextInputs.inp.rst = false ∧
      s.nextInputs.queue = [])

/-- A word placed on the ports is the operation the next step runs (30_encoding.md R51; how a program
comes to run is the model's choice, notes/assumptions/6.md). -/
def Obligations.PlacedWordIsRunNext : Prop :=
  ∀ (s : State) (w : Nat), w < 2 ^ 98 →
    ∃ i, decodeTableWord 104 w = some i ∧ encode i = BitVec.ofNat 98 w ∧
      step (s.withFetchWord 104 w) = exec i (s.withFetchWord 104 w).nextInputs

/-- 10_state.md R29: in a cycle with `in_valid = 0` no operation is accepted and `op`, `x` and `k` are
ignored. -/
def Obligations.InputsIgnoredWhenNotValid : Prop :=
  ∀ (s : State) (op : OpField) (x : Word64) (k : Word32), s.inp.inValid = false →
    ∃ t, step s = .next t ∧
      step { s with inp := { s.inp with op := op, x := x, k := k } } = .next t ∧
      (s.cfg.latency = 0 → t.out.valid = false) ∧
      (0 < s.cfg.latency → ∀ slot, t.pipe[0]? = some slot → slot.valid = false)

/-- 10_state.md R28, 70_reset_and_hazards.md R170: without a pipeline `rst` has no effect and
`out_valid = in_valid`, with the operation's own outputs in the same cycle. -/
def Obligations.CombinationalWithoutPipeline : Prop :=
  ∀ (s : State) (b : Bool), s.cfg.latency = 0 →
    ∃ t, step s = .next t ∧ step { s with inp := { s.inp with rst := b } } = .next t ∧
      t.out.valid = s.inp.inValid ∧ t.pipe = [] ∧
      (s.inp.inValid = true →
        ∃ t', exec (decode (s.inp.op ++ s.inp.k ++ s.inp.x)) s = .next t' ∧ t'.out = t.out)

/-- 10_state.md R31: one rising edge with `rst = 0` of a build with a pipeline. -/
def Obligations.PipelineAdvancesOneStage : Prop :=
  ∀ s : State, s.pipe.length = s.cfg.latency → 0 < s.cfg.latency → s.inp.rst = false →
    ∃ t first last, step s = .next t ∧ t.pipe.length = s.cfg.latency ∧
      t.pipe[0]? = some first ∧ first.valid = s.inp.inValid ∧
      (s.inp.inValid = true →
        ∃ t', exec (decode (s.inp.op ++ s.inp.k ++ s.inp.x)) s = .next t' ∧
          t'.entered = some first) ∧
      (∀ j, j + 1 < s.cfg.latency → t.pipe[j + 1]? = s.pipe[j]?) ∧
      s.pipe[s.cfg.latency - 1]? = some last ∧ t.out.valid = last.valid ∧
      (last.valid = true → t.out = last)

/-- 70_reset_and_hazards.md R171, R179: a reset edge clears every valid bit and accepts nothing,
whatever stands on the other inputs.  That the ports show stage `P_LATENCY` in the cycle the edge
ends is the model's reading (notes/assumptions/7.md). -/
def Obligations.ResetEdgeClearsThePipeline : Prop :=
  ∀ (s : State) (v : Bool) (op : OpField) (x : Word64) (k : Word32),
    s.pipe.length = s.cfg.latency → 0 < s.cfg.latency → s.inp.rst = true →
    ∃ t last, step s = .next t ∧
      step { s with inp := ⟨true, v, op, x, k⟩ } = .next t ∧
      t.pipe.length = s.cfg.latency ∧ (∀ slot ∈ t.pipe, slot.valid = false) ∧
      s.pipe[s.cfg.latency - 1]? = some last ∧ t.out.valid = last.valid ∧
      (last.valid = true → t.out = last)

/-- 70_reset_and_hazards.md R171, R179, 10_state.md R32: after a reset edge no output is valid for
`P_LATENCY` cycles, from any state of the pipeline and whatever the host presents: nothing that was in
flight ever yields a result.  Cycles past the host's list are idle by the model's choice
(notes/assumptions/5.md). -/
def Obligations.NoResultForLatencyCyclesAfterReset : Prop :=
  ∀ (s : State) (n : Nat), s.inp.rst = true → 1 ≤ n → n ≤ s.cfg.latency →
    ∃ t : State, Host.Core.run Sys2Proof.core (n + 1) s = .next t ∧ t.out.valid = false

/-- 70_reset_and_hazards.md R175 (and R176, R177): the outputs of the operation accepted in a cycle are
on the ports, valid, exactly `P_LATENCY` cycles later, whatever else is presented meanwhile; and the
ports are valid in that cycle only if an operation was.  The one premise is that no reset edge comes
between.  Two clauses rest on the model's choices: `rst` may be 1 in the very cycle that shows the
result (the reading of notes/assumptions/7.md, where the table of 10_state.md R32 says 0), and cycles
past the host's list are idle (notes/assumptions/5.md). -/
def Obligations.ResultShownAfterLatencyCycles : Prop :=
  ∀ s : State, (∀ p ∈ (s.inp :: s.queue).take s.cfg.latency, p.rst = false) →
    ∃ t : State, Host.Core.run Sys2Proof.core (s.cfg.latency + 1) s = .next t ∧
      t.out.valid = s.inp.inValid ∧
      (s.inp.inValid = true →
        ∃ t', exec (decode (s.inp.op ++ s.inp.k ++ s.inp.x)) s = .next t' ∧
          t'.entered = some t.out)

/-- 60_exceptions.md R140: nothing stops the block: every operation in every state, and every clock
cycle, has a next state. -/
def Obligations.NothingEverStops : Prop :=
  (∀ (i : Instr) (s : State), ∃ t r, exec i s = .next t ∧ t.entered = some ⟨true, r⟩) ∧
  (∀ s : State, ∃ t, step s = .next t)

/-! ## Invariants and reset -/

/-- Every step keeps the invariant (10_state.md R31, 60_exceptions.md R141, R142): the pipeline has
`P_LATENCY` stages, and no valid slot holds a result whose status code is never produced, or an
ILLEGAL one with data. -/
def Obligations.StepKeepsTheInvariant : Prop :=
  ∀ s t : State, s.Inv → step s = .next t → t.Inv

/-- The state after reset of every build meets the invariant, and `State.reset` is that of the default
build (10_state.md R32; that the default build is the reset state is notes/assumptions/1.md, and
`out_valid = 0` without a pipeline is notes/assumptions/5.md). -/
def Obligations.ResetMeetsTheInvariant : Prop :=
  (∀ c : Config, (State.resetOf c).Inv) ∧ State.reset = State.resetOf Config.specDefault

/-- 10_state.md R24: no step changes a build-time parameter. -/
def Obligations.ParametersNeverChange : Prop :=
  ∀ s t : State, step s = .next t → t.cfg = s.cfg

/-- 10_state.md R32 and 00_scope.md R10 to R12: what reset leaves, in every build; and the default
build.  Two clauses rest on the model's choices.  That `State.reset` has the parameters of the default
build is notes/assumptions/1.md: R10 to R12 give those values, and R32 says only that reset does not
change the parameters.  For `P_LATENCY = 0` R32 makes `out_valid` equal `in_valid`: there
`out_valid = 0` rests on idle inputs at reset (notes/assumptions/5.md). -/
def Obligations.ResetLeavesNothingValid : Prop :=
  (∀ c : Config, (State.resetOf c).cfg = c ∧ (State.resetOf c).pipe.length = c.latency ∧
    (∀ slot ∈ (State.resetOf c).pipe, slot.valid = false) ∧
    (State.resetOf c).out.valid = false) ∧
  State.reset.cfg = ⟨0, .unspecified, false⟩
end

