-- ==== Sys2Proof/Laws/PerInstr.lean ====
section
/-! SUPPORT. Statements about an operation as syntax, one lemma per constructor. -/

namespace Sys2Proof.Laws

/-- The value of `op` in an operation's row of spec/opcode_table.json. -/
def RowMatch.tableOp : Instr → OpField
  | .frexp64 _ _ => 0b00#2
  | .ldexp64 _ _ => 0b01#2
  | .frexp32 _ _ => 0b10#2
  | .ldexp32 _ _ => 0b11#2

/-- The word of an operation matches its row: `word & mask = match`, with the mask on bits 97..96. -/
def RowMatch.Statement (i : Instr) : Prop := opOf (encode i) = RowMatch.tableOp i

theorem opOf_opw (op : OpField) (k : Word32) (x : Word64) : opOf (opw op k x) = op := by
  ext j hj
  simp only [opOf, opw, BitVec.getElem_extractLsb', BitVec.getLsbD_append]
  simp [show ¬ 96 + j < 64 by omega, show ¬ 96 + j - 64 < 32 by omega,
    show 96 + j - 64 - 32 = j by omega, BitVec.getLsbD_eq_getElem hj]

theorem RowMatch.frexp64 (x : Word64) (k : Word32) : RowMatch.Statement (.frexp64 x k) :=
  opOf_opw _ _ _

theorem RowMatch.ldexp64 (x : Word64) (k : Word32) : RowMatch.Statement (.ldexp64 x k) :=
  opOf_opw _ _ _

theorem RowMatch.frexp32 (x : Word64) (k : Word32) : RowMatch.Statement (.frexp32 x k) :=
  opOf_opw _ _ _

theorem RowMatch.ldexp32 (x : Word64) (k : Word32) : RowMatch.Statement (.ldexp32 x k) :=
  opOf_opw _ _ _

end Sys2Proof.Laws
end

