-- ==== Sys2Proof/Laws/Decode.lean ====
section
/-! SUPPORT. The three fields of an operation word. -/

namespace Sys2Proof

theorem opOf_opw (op : OpField) (k : Word32) (x : Word64) : opOf (opw op k x) = op :=
  Laws.opOf_opw op k x

theorem kOf_opw (op : OpField) (k : Word32) (x : Word64) : kOf (opw op k x) = k := by
  ext j hj
  simp only [kOf, opw, BitVec.getElem_extractLsb', BitVec.getLsbD_append]
  simp [hj]

theorem xOf_opw (op : OpField) (k : Word32) (x : Word64) : xOf (opw op k x) = x := by
  ext j hj
  simp only [xOf, opw, BitVec.getElem_extractLsb', BitVec.getLsbD_append]
  simp [hj]

/-- An operation word is its three fields. -/
theorem opw_of_fields (w : Opw) : opw (opOf w) (kOf w) (xOf w) = w := by
  ext j hj
  rw [← BitVec.getLsbD_eq_getElem, opw, BitVec.getLsbD_append, BitVec.getLsbD_append]
  simp only [opOf, kOf, xOf, BitVec.getLsbD_extractLsb']
  split_ifs with h1 h2
  · simp [h1, BitVec.getLsbD_eq_getElem hj]
  · simp [h2, BitVec.getLsbD_eq_getElem hj, show 64 + (j - 64) = j by omega]
  · simp [show 96 + (j - 64 - 32) = j by omega, BitVec.getLsbD_eq_getElem hj]
    intro; omega

/-- The fields of the word on the input ports are the ports. -/
theorem decode_opw (op : OpField) (k : Word32) (x : Word64) :
    decode (opw op k x) = decodeFields op k x := by
  simp [decode, opOf_opw, kOf_opw, xOf_opw]

end Sys2Proof
end

