-- ==== Sys2Proof/Laws/Operands.lean ====
section
/-! SUPPORT. The fields of a packed pattern, and the classes in terms of the fields. -/

namespace Sys2Proof.Machine

/-! ## Fields of a packed pattern -/

@[simp] theorem sign64_pack64 (s : BitVec 1) (e : BitVec 11) (f : BitVec 52) :
    sign64 (pack64 s e f) = s := by
  ext i hi
  simp only [sign64, pack64, BitVec.getElem_extractLsb', BitVec.getLsbD_append]
  simp [show ¬ 63 + i < 52 by omega, show ¬ 63 + i - 52 < 11 by omega,
    show 63 + i - 52 - 11 = i by omega, BitVec.getLsbD_eq_getElem hi]

@[simp] theorem expField64_pack64 (s : BitVec 1) (e : BitVec 11) (f : BitVec 52) :
    expField64 (pack64 s e f) = e := by
  ext i hi
  simp only [expField64, pack64, BitVec.getElem_extractLsb', BitVec.getLsbD_append]
  simp [hi, show ¬ 52 + i < 52 by omega, show 52 + i - 52 = i by omega]

@[simp] theorem fracField64_pack64 (s : BitVec 1) (e : BitVec 11) (f : BitVec 52) :
    fracField64 (pack64 s e f) = f := by
  ext i hi
  simp only [fracField64, pack64, BitVec.getElem_extractLsb', BitVec.getLsbD_append]
  simp [hi]

@[simp] theorem sign32_pack32 (s : BitVec 1) (e : BitVec 8) (f : BitVec 23) :
    sign32 (pack32 s e f) = s := by
  ext i hi
  simp only [sign32, pack32, BitVec.getElem_extractLsb', BitVec.getLsbD_append]
  simp [show ¬ 31 + i < 23 by omega, show ¬ 31 + i - 23 < 8 by omega,
    show 31 + i - 23 - 8 = i by omega, BitVec.getLsbD_eq_getElem hi]

@[simp] theorem expField32_pack32 (s : BitVec 1) (e : BitVec 8) (f : BitVec 23) :
    expField32 (pack32 s e f) = e := by
  ext i hi
  simp only [expField32, pack32, BitVec.getElem_extractLsb', BitVec.getLsbD_append]
  simp [hi, show ¬ 23 + i < 23 by omega, show 23 + i - 23 = i by omega]

@[simp] theorem fracField32_pack32 (s : BitVec 1) (e : BitVec 8) (f : BitVec 23) :
    fracField32 (pack32 s e f) = f := by
  ext i hi
  simp only [fracField32, pack32, BitVec.getElem_extractLsb', BitVec.getLsbD_append]
  simp [hi]

@[simp] theorem low32_onPort32 (y : Word32) : low32 (onPort32 y) = y := by
  ext i hi
  simp only [low32, onPort32, BitVec.getElem_extractLsb', BitVec.getLsbD_append]
  simp [hi]

/-! ## Fields within their range -/

theorem exp64_lt (x : Word64) : exp64 x < 2048 := (expField64 x).isLt

theorem frac64_lt (x : Word64) : frac64 x < 2 ^ 52 := (fracField64 x).isLt

theorem exp32_lt (x : Word32) : exp32 x < 256 := (expField32 x).isLt

theorem frac32_lt (x : Word32) : frac32 x < 2 ^ 23 := (fracField32 x).isLt

/-! ## Classes -/

theorem classOf_eq_zero {emax e f : Nat} : classOf emax e f = .zero ↔ e = 0 ∧ f = 0 := by
  unfold classOf; split_ifs <;> simp_all

theorem classOf_eq_subnormal {emax e f : Nat} :
    classOf emax e f = .subnormal ↔ e = 0 ∧ f ≠ 0 := by
  unfold classOf; split_ifs <;> simp_all

theorem classOf_eq_normal {emax e f : Nat} :
    classOf emax e f = .normal ↔ e ≠ 0 ∧ e ≠ emax := by
  unfold classOf; split_ifs <;> simp_all

theorem classOf_eq_inf {emax e f : Nat} :
    classOf emax e f = .inf ↔ e ≠ 0 ∧ e = emax ∧ f = 0 := by
  unfold classOf; split_ifs <;> simp_all

theorem classOf_eq_nan {emax e f : Nat} :
    classOf emax e f = .nan ↔ e ≠ 0 ∧ e = emax ∧ f ≠ 0 := by
  unfold classOf; split_ifs <;> simp_all

theorem isOod_eq_false_iff (c : FpClass) : isOod c = false ↔ c = .zero ∨ c = .normal := by
  cases c <;> simp [isOod]

end Sys2Proof.Machine
end

