-- ==== Sys2Proof/Laws/State.lean ====
section
/-! SUPPORT. One lemma per field of `State` per update, so that no proof unfolds a record update. -/

namespace Sys2Proof.Machine

variable (s : State) (entering : Slot) (r : Result) (c : Config)

/-! ## The host's inputs -/

@[simp] theorem State.nextInputs_cfg : s.nextInputs.cfg = s.cfg := by
  unfold State.nextInputs; split <;> rfl

@[simp] theorem State.nextInputs_pipe : s.nextInputs.pipe = s.pipe := by
  unfold State.nextInputs; split <;> rfl

@[simp] theorem State.nextInputs_out : s.nextInputs.out = s.out := by
  unfold State.nextInputs; split <;> rfl

@[simp] theorem State.nextInputs_draws : s.nextInputs.draws = s.draws := by
  unfold State.nextInputs; split <;> rfl

theorem State.nextInputs_of_queue_cons {p : InPorts} {q : List InPorts} (h : s.queue = p :: q) :
    s.nextInputs.inp = p ∧ s.nextInputs.queue = q := by
  simp [State.nextInputs, h]

theorem State.nextInputs_of_queue_nil (h : s.queue = []) :
    s.nextInputs.inp = .idle ∧ s.nextInputs.queue = [] := by
  simp [State.nextInputs, h]

/-! ## One clock cycle -/

@[simp] theorem State.clock_cfg : (s.clock entering).cfg = s.cfg := rfl
@[simp] theorem State.clock_inp : (s.clock entering).inp = s.inp := rfl
@[simp] theorem State.clock_queue : (s.clock entering).queue = s.queue := rfl
@[simp] theorem State.clock_pipe :
    (s.clock entering).pipe = (entering :: s.pipe).take s.cfg.latency := rfl
@[simp] theorem State.clock_out :
    (s.clock entering).out = shown (s.lastStage entering) s.draws := rfl
@[simp] theorem State.clock_draws : (s.clock entering).draws = s.draws + 1 := rfl

theorem State.accept_eq_clock : s.accept r = s.clock { valid := true, res := r } := rfl

theorem State.idleCycle_eq_clock : s.idleCycle = s.clock s.bubble := rfl

@[simp] theorem State.bubble_valid : s.bubble.valid = false := rfl

/-! ## A reset edge -/

@[simp] theorem State.resetEdge_cfg : s.resetEdge.cfg = s.cfg := rfl
@[simp] theorem State.resetEdge_inp : s.resetEdge.inp = s.inp := rfl
@[simp] theorem State.resetEdge_queue : s.resetEdge.queue = s.queue := rfl
@[simp] theorem State.resetEdge_pipe :
    s.resetEdge.pipe = clearedStages s.cfg.latency s.draws := rfl
@[simp] theorem State.resetEdge_out :
    s.resetEdge.out = shown (s.lastStage s.bubble) s.draws := rfl
@[simp] theorem State.resetEdge_draws : s.resetEdge.draws = s.draws + 1 := rfl

@[simp] theorem clearedStages_length (latency n : Nat) :
    (clearedStages latency n).length = latency := by
  simp [clearedStages]

theorem clearedStages_valid {latency n : Nat} {slot : Slot} (h : slot ∈ clearedStages latency n) :
    slot.valid = false := by
  obtain ⟨i, -, rfl⟩ := List.mem_map.mp h
  rfl

/-! ## The state after reset -/

@[simp] theorem State.resetOf_cfg : (State.resetOf c).cfg = c := rfl
@[simp] theorem State.resetOf_inp : (State.resetOf c).inp = .idle := rfl
@[simp] theorem State.resetOf_queue : (State.resetOf c).queue = [] := rfl
@[simp] theorem State.resetOf_pipe : (State.resetOf c).pipe = clearedStages c.latency 0 := rfl
@[simp] theorem State.resetOf_out_valid : (State.resetOf c).out.valid = false := rfl

/-! ## The state before the first reset -/

@[simp] theorem State.powerOn_cfg : (State.powerOn c).cfg = c := rfl
@[simp] theorem State.powerOn_inp : (State.powerOn c).inp = .idle := rfl
@[simp] theorem State.powerOn_queue : (State.powerOn c).queue = [] := rfl
@[simp] theorem State.powerOn_draws : (State.powerOn c).draws = 1 := rfl

@[simp] theorem State.powerOn_pipe_length : (State.powerOn c).pipe.length = c.latency := by
  simp [State.powerOn]

/-- A build without a pipeline has nothing to reset (70_reset_and_hazards.md R174). -/
theorem State.powerOn_of_latency_zero (h : c.latency = 0) :
    (State.powerOn c).pipe = [] ∧ (State.powerOn c).out.valid = false := by
  simp [State.powerOn, h]

end Sys2Proof.Machine
end

