-- ==== Sys2Proof/Laws/Ops.lean ====
section
/-! SUPPORT. What the shared operations, `exec` and `step` can do, said once each. -/

namespace Sys2Proof.Machine

/-! ## What the ports show -/

@[simp] theorem shown_valid (slot : Slot) (n : Nat) : (shown slot n).valid = slot.valid := by
  unfold shown; split <;> simp_all

theorem shown_of_valid {slot : Slot} (h : slot.valid = true) (n : Nat) : shown slot n = slot := by
  simp [shown, h]

/-- Without a pipeline the entering slot is the one shown. -/
theorem State.lastStage_of_latency_zero {s : State} (h : s.cfg.latency = 0) (entering : Slot) :
    s.lastStage entering = entering := by
  simp [State.lastStage, h]

/-- With a pipeline of `P_LATENCY` stages the last of them is shown, whatever enters. -/
theorem State.lastStage_of_pos {s : State} (hlen : s.pipe.length = s.cfg.latency)
    (hpos : 0 < s.cfg.latency) (entering : Slot) :
    ∃ last, s.pipe[s.cfg.latency - 1]? = some last ∧ s.lastStage entering = last := by
  obtain ⟨m, hm⟩ := Nat.exists_eq_add_of_lt hpos
  have hm' : s.cfg.latency = m + 1 := by omega
  have hlt : m < s.pipe.length := by omega
  refine ⟨s.pipe[m], ?_, ?_⟩
  · simp [hm', hlt]
  · simp [State.lastStage, hm', hlt]

/-- The slot shown is the entering one, one of the pipeline, or an invalid one. -/
theorem State.lastStage_cases (s : State) (entering : Slot) :
    s.lastStage entering ∈ entering :: s.pipe ∨ (s.lastStage entering).valid = false := by
  unfold State.lastStage
  cases h : (entering :: s.pipe)[s.cfg.latency]? with
  | none => exact .inr rfl
  | some slot => exact .inl (List.mem_of_getElem? h)

/-! ## One clock cycle -/

/-- Where a valid slot that enters stands after the cycle. -/
theorem State.clock_entered (s : State) {entering : Slot} (h : entering.valid = true) :
    (s.clock entering).entered = some entering := by
  rcases hL : s.cfg.latency with _ | m
  · simp [State.entered, hL, State.lastStage_of_latency_zero hL, shown_of_valid h]
  · simp [State.entered, hL]

theorem State.accept_entered (s : State) (r : Result) :
    (s.accept r).entered = some { valid := true, res := r } :=
  s.clock_entered rfl

theorem State.clock_pipe_length {s : State} (h : s.pipe.length = s.cfg.latency) (entering : Slot) :
    (s.clock entering).pipe.length = s.cfg.latency := by
  simp [h]

/-! ## `exec` -/

/-- The outputs of an operation, by its row of the table: a function of the build and the operation
(10_state.md R20, 20_memory.md R44). -/
def resultOf (c : Config) : Instr → Result
  | .frexp64 x _ => frexp64Result c x
  | .ldexp64 x k => ldexp64Result c x k
  | .frexp32 x _ => frexp32Result c (low32 x)
  | .ldexp32 x k => ldexp32Result c (low32 x) k

/-- All that `exec` does: the cycle accepts the operation's outputs. -/
theorem exec_eq_accept (i : Instr) (s : State) :
    exec i s = .next (s.accept (resultOf s.cfg i)) := by
  cases i <;> rfl

/-- `exec` answers a next state into which the operation's outputs have entered. -/
theorem exec_entered (i : Instr) (s : State) :
    ∃ t, exec i s = .next t ∧ t.entered = some { valid := true, res := resultOf s.cfg i } :=
  ⟨_, exec_eq_accept i s, s.accept_entered _⟩

/-! ## `step` -/

/-- All that `step` does. -/
theorem step_cases {s t : State} (h : step s = .next t) :
    (s.resets = true ∧ t = s.nextInputs.resetEdge) ∨
    (s.resets = false ∧ s.inp.inValid = true ∧
      t = s.nextInputs.accept (resultOf s.cfg (decode s.inp.opw))) ∨
    (s.resets = false ∧ s.inp.inValid = false ∧ t = s.nextInputs.idleCycle) := by
  cases hr : s.resets <;> cases hv : s.inp.inValid <;>
    simp [step, hr, hv, State.accepted, exec_eq_accept] at h <;> simp [h]

/-- The slot that enters in a cycle without a reset edge. -/
def State.entering (s : State) : Slot :=
  if s.inp.inValid then { valid := true, res := resultOf s.cfg (decode s.inp.opw) }
  else s.bubble

@[simp] theorem State.entering_valid (s : State) : s.entering.valid = s.inp.inValid := by
  unfold State.entering; split <;> simp_all

/-- A step without a reset edge is one clock cycle. -/
theorem step_of_not_resets {s : State} (h : s.resets = false) :
    step s = .next (s.nextInputs.clock s.entering) := by
  cases hv : s.inp.inValid <;>
    simp [step, h, State.accepted, hv, State.entering, exec_eq_accept, State.accept_eq_clock,
      State.idleCycle_eq_clock, State.bubble]

/-- A step with a reset edge. -/
theorem step_of_resets {s : State} (h : s.resets = true) :
    step s = .next s.nextInputs.resetEdge := by
  simp [step, h]

/-! ## Driving the outputs -/

theorem drive_of_inDomain (p : OodData) (steps free : Word64 × Word32) :
    drive p false steps free = { y := steps.1, e := steps.2, domErr := false, illOp := false } := by
  cases p <;> rfl

theorem drive_literal (ood : Bool) (steps free : Word64 × Word32) :
    drive .literal ood steps free =
      { y := steps.1, e := steps.2, domErr := ood, illOp := false } := by
  cases ood <;> rfl

@[simp] theorem drive_domErr (p : OodData) (ood : Bool) (steps free : Word64 × Word32) :
    (drive p ood steps free).domErr = ood := by
  cases p <;> cases ood <;> rfl

@[simp] theorem drive_illOp (p : OodData) (ood : Bool) (steps free : Word64 × Word32) :
    (drive p ood steps free).illOp = false := by
  cases p <;> cases ood <;> rfl

/-- Where the steps and the free data agree on `e`, that is what is driven. -/
theorem drive_e_of_eq {p : OodData} {ood : Bool} {steps free : Word64 × Word32} {e : Word32}
    (h : steps.2 = e) (h' : free.2 = e) : (drive p ood steps free).e = e := by
  cases p <;> cases ood <;> simp [drive, h, h']

/-- Every operation's outputs are lawful. -/
theorem resultOf_lawful (c : Config) (i : Instr) : (resultOf c i).Lawful c := by
  have hd : ∀ p ood steps free, (drive p ood steps free).Lawful c := by
    intro p ood steps free
    cases p <;> cases ood <;> simp [Result.Lawful, Result.status, drive]
  have hi : c.hasBinary32 = false → illegalResult.Lawful c := by
    intro h; simp [Result.Lawful, Result.status, illegalResult, h]
  cases i with
  | frexp64 x k => exact hd _ _ _ _
  | ldexp64 x k => exact hd _ _ _ _
  | frexp32 x k =>
    cases hb : c.hasBinary32
    · simpa [resultOf, frexp32Result, hb] using hi hb
    · simpa [resultOf, frexp32Result, hb] using hd _ _ _ _
  | ldexp32 x k =>
    cases hb : c.hasBinary32
    · simpa [resultOf, ldexp32Result, hb] using hi hb
    · simpa [resultOf, ldexp32Result, hb] using hd _ _ _ _

end Sys2Proof.Machine
end

