-- ==== Sys2Proof/Machine/Asm.lean ====
section
/-! DEFINITION. The written form of an operation and its outputs (30_encoding.md R59).  Nothing
executes it. -/

namespace Sys2Proof.Machine

/-- A bit pattern in upper-case hexadecimal with the digits of its width. -/
def hexText (n : Nat) (v : BitVec n) : String := "0x" ++ v.toHex.toUpper

/-- `<mnemonic> <operands>`: a binary32 operand is written as its 32 bits, `k` in decimal. -/
def asmOperation : Instr → String
  | .frexp64 x _ => "FREXP64 " ++ hexText 64 x
  | .ldexp64 x k => "LDEXP64 " ++ hexText 64 x ++ ", " ++ toString k.toInt
  | .frexp32 x _ => "FREXP32 " ++ hexText 32 (low32 x)
  | .ldexp32 x k => "LDEXP32 " ++ hexText 32 (low32 x) ++ ", " ++ toString k.toInt

/-- The outputs an operation is written with: `y, e` for Decompose, `y` for Recompose. -/
def asmOutputs (i : Instr) (r : Result) : String :=
  match i with
  | .frexp64 _ _ => hexText 64 r.y ++ ", " ++ toString r.e.toInt
  | .ldexp64 _ _ => hexText 64 r.y
  | .frexp32 _ _ => hexText 32 (low32 r.y) ++ ", " ++ toString r.e.toInt
  | .ldexp32 _ _ => hexText 32 (low32 r.y)

/-- The operation, `->`, its outputs, and each status output that is 1. -/
def asmLine (i : Instr) (r : Result) : String :=
  asmOperation i ++ " -> " ++ asmOutputs i r
    ++ (if r.domErr then " [dom_err]" else "") ++ (if r.illOp then " [ill_op]" else "")

end Sys2Proof.Machine
end

