-- ==== Sys2Proof/Tests/Slice0.lean ====
section
/-! SUPPORT. Small tests, each about one step, with the expected result taken from a vector of
spec/95_test_vectors.md (named in its comment), and a witness for the hypotheses of each statement. -/

namespace Sys2Proof.Tests

open Sys2Proof.Machine

/-- The output ports of a next state. -/
def outOf : Host.Outcome State Fault Refusal → Option Slot
  | .next t => some t.out
  | .fault _ => none
  | .refused _ => none

/-- What one step shows when a build presents an operation right after reset. -/
def shows (c : Config) (i : Instr) : Option Slot :=
  outOf (step ((State.resetOf c).withFetchWord 104 (encode i).toNat))

/-- A build with the binary32 option. -/
def withBinary32 : Config := { Config.specDefault with hasBinary32 := true }

/-- A `LITERAL` build with the binary32 option. -/
def literalBuild : Config := { withBinary32 with oodData := .literal }

/-- A build with two pipeline stages. -/
def twoStages : Config := { Config.specDefault with latency := 2 }

/-! ## Well-formedness -/

/-- 30_encoding.md R56: the default build lacks FREXP32. -/
theorem test_wellFormed_refuses_frexp32 :
    (Instr.frexp32 0x3F800000#64 0#32).existsIn Config.specDefault = false := by decide

/-- 30_encoding.md R56: the default build lacks LDEXP32. -/
theorem test_wellFormed_refuses_ldexp32 :
    (Instr.ldexp32 0x3F800000#64 3#32).existsIn Config.specDefault = false := by decide

/-! ## Decoding: words written out from 30_encoding.md R51 -/

/-- P1, step 1. -/
theorem test_decode_frexp64 :
    decodeTableWord 104 0x000000000C008000000000000 = some (.frexp64 0xC008000000000000#64 0#32) := by
  decide

/-- P3, step 2: `k = -1019`. -/
theorem test_decode_ldexp64 :
    decodeTableWord 104 0x1FFFFFC053FE999999999999A =
      some (.ldexp64 0x3FE999999999999A#64 0xFFFFFC05#32) := by decide

/-- P5, step 1. -/
theorem test_decode_frexp32 :
    decodeTableWord 104 0x200000000000000003F800000 = some (.frexp32 0x3F800000#64 0#32) := by decide

/-- P5, step 2. -/
theorem test_decode_ldexp32 :
    decodeTableWord 104 0x30000000300000000BF400000 = some (.ldexp32 0xBF400000#64 3#32) := by decide

/-- R51: bit 98 is no bit of an operation word. -/
theorem test_decode_refuses_wide_word : decodeTableWord 104 (2 ^ 98) = none := by decide

/-- R56: the default build refuses LDEXP32 by name. -/
theorem test_decodeIn_illegal :
    decodeIn Config.specDefault 0x30000000300000000BF400000 = .error (.illegalOp 0b11#2) := by rfl

/-! ## One step of each operation -/

/-- F64-08: the smallest normal has the minimum exponent, -1021. -/
theorem test_frexp64_smallest_normal :
    shows .specDefault (.frexp64 0x0010000000000000#64 0#32) =
      some ⟨true, ⟨0x3FE0000000000000#64, 0xFFFFFC03#32, false, false⟩⟩ := by decide

/-- F64-11: the sign of -0.0 is dropped. -/
theorem test_frexp64_negative_zero :
    shows .specDefault (.frexp64 0x8000000000000000#64 0#32) =
      some ⟨true, ⟨0x0000000000000000#64, 0#32, false, false⟩⟩ := by decide

/-- L64-06: an exponent landing on 2047 with a fraction is a NaN pattern, not a domain error. -/
theorem test_ldexp64_lands_on_2047 :
    shows .specDefault (.ldexp64 0x3FF8000000000000#64 1024#32) =
      some ⟨true, ⟨0x7FF8000000000000#64, 0#32, false, false⟩⟩ := by decide

/-- L64-14: underflow of a negative operand saturates to minus infinity. -/
theorem test_ldexp64_underflow_is_infinity :
    shows .specDefault (.ldexp64 0xC000000000000000#64 (BitVec.ofInt 32 (-2000))) =
      some ⟨true, ⟨0xFFF0000000000000#64, 0#32, false, false⟩⟩ := by decide

/-- F32-02, with `x[63:32]` not zero (R55). -/
theorem test_frexp32_ignores_upper_half :
    shows withBinary32 (.frexp32 0xDEADBEEFC0C00000#64 7#32) =
      some ⟨true, ⟨0x00000000BF400000#64, 3#32, false, false⟩⟩ := by decide

/-- F32-08 under `LITERAL`: infinity is out of domain. -/
theorem test_frexp32_literal_infinity :
    shows literalBuild (.frexp32 0x7F800000#64 0#32) =
      some ⟨true, ⟨0x3F000000#64, 129#32, true, false⟩⟩ := by decide

/-- L32-05: underflow of -1.0 saturates to minus infinity. -/
theorem test_ldexp32_underflow_is_infinity :
    shows withBinary32 (.ldexp32 0xBF800000#64 (BitVec.ofInt 32 (-128))) =
      some ⟨true, ⟨0xFF800000#64, 0#32, false, false⟩⟩ := by decide

/-- I-02: without the option LDEXP32 is illegal and its NaN operand is not examined. -/
theorem test_ldexp32_illegal :
    shows .specDefault (.ldexp32 0x7FF8000000000000#64 5#32) =
      some ⟨true, ⟨0x0000000000000000#64, 0#32, false, true⟩⟩ := by decide

/-! ## The clock cycle -/

/-- P4, cycle 1: with two stages the ports are not valid in the cycle of presentation. -/
theorem test_pipeline_not_valid_yet :
    (shows twoStages (.frexp64 0x4020000000000000#64 0#32)).map (·.valid) = some false := by decide

/-- P4, cycle 1: the result stands in stage 1 after the edge. -/
theorem test_pipeline_first_stage :
    (match step ((State.resetOf twoStages).withFetchWord 104 0x0000000004020000000000000) with
      | .next t => t.pipe.head?
      | .fault _ => none
      | .refused _ => none) =
      some ⟨true, ⟨0x3FE0000000000000#64, 4#32, false, false⟩⟩ := by decide

/-- 10_state.md R32: the first step after reset, with nothing presented, shows `out_valid = 0`. -/
theorem test_idle_step : (outOf (step State.reset)).map (·.valid) = some false := by decide

/-! ## The configuration string -/

/-- 00_scope.md R4: the default configuration. -/
theorem test_default_name : Config.specDefault.name = "frexp_ldexp-b64-L0-UNSPECIFIED" := by decide

/-! ## Witnesses for the hypotheses of the statements

Patterns: 1.0 is 0x3FF0000000000000, the smallest and largest normals 0x0010000000000000 and
0x7FEFFFFFFFFFFFFF; the binary32 ones 0x3F800000, 0x00800000 and 0x7F7FFFFF. -/

theorem witness_normal64_at_both_ends :
    class64 0x0010000000000000#64 = .normal ∧ class64 0x7FEFFFFFFFFFFFFF#64 = .normal := by decide

theorem witness_NegationFlipsOnlyTheSign : class64 0xBFF0000000000000#64 = .normal := by decide

theorem witness_Frexp64Result :
    (0x8000000000000000#64).extractLsb' 0 63 = 0#63 ∧
    class64 0x0010000000000000#64 = .normal ∧ class64 0x7FEFFFFFFFFFFFFF#64 = .normal ∧
    class64 0x000FFFFFFFFFFFFF#64 = .subnormal ∧ class64 0x7FF0000000000000#64 = .inf ∧
    class64 0x7FF0000000000001#64 = .nan ∧
    (State.resetOf literalBuild).cfg.oodData = .literal := by decide

theorem witness_Frexp64ExponentDoesNotWrap : class64 0x0010000000000000#64 = .normal := by decide

theorem witness_Frexp64MantissaInHalfToOne : class64 0x7FEFFFFFFFFFFFFF#64 = .normal := by decide

theorem witness_Frexp64IsExact : class64 0xC008000000000000#64 = .normal := by decide

theorem witness_Frexp64LiteralOutcomes :
    (State.resetOf literalBuild).cfg.oodData = .literal ∧
    isOod (class64 0x0000000000000001#64) = true ∧ class64 0x0000000000000001#64 = .subnormal ∧
    isOod (class64 0xFFF0000000000000#64) = true ∧ class64 0xFFF0000000000000#64 = .inf ∧
    isOod (class64 0x7FFFFFFFFFFFFFFF#64) = true ∧ class64 0x7FFFFFFFFFFFFFFF#64 = .nan := by decide

theorem witness_Frexp32Result :
    (State.resetOf literalBuild).cfg.hasBinary32 = true ∧
    (State.resetOf literalBuild).cfg.oodData = .literal ∧
    (0x80000000#64).extractLsb' 0 31 = 0#31 ∧
    class32 ((0x00800000#64).extractLsb' 0 32) = .normal ∧
    class32 ((0x7F7FFFFF#64).extractLsb' 0 32) = .normal ∧
    isOod (class32 ((0x007FFFFF#64).extractLsb' 0 32)) = true ∧
    isOod (class32 ((0x7F800000#64).extractLsb' 0 32)) = true := by decide

theorem witness_Frexp32IsExactInRange :
    (State.resetOf withBinary32).cfg.hasBinary32 = true ∧
    class32 ((0x00800000#64).extractLsb' 0 32) = .normal := by decide

theorem witness_Ldexp64Result :
    (∃ t, exec (.ldexp64 0x3FF0000000000000#64 1#32) State.reset = .next t ∧
      t.entered.map (·.res.domErr) = some false) ∧
    (State.resetOf literalBuild).cfg.oodData = .literal := ⟨⟨_, rfl, by decide⟩, by decide⟩

theorem witness_Ldexp64NoOpCases :
    (isOod (class64 0x8000000000000000#64) = false ∧ isZero64 0x8000000000000000#64 = true) ∧
    isOod (class64 0x3FF0000000000000#64) = false := by decide

/-- `n = -1` and `n = 2048`, the first values out of range (L64-13, L64-08). -/
theorem witness_Ldexp64SaturatesOnBothSides :
    class64 0x3FF0000000000000#64 = .normal ∧
    (exp64 0x3FF0000000000000#64 : Int) + (BitVec.ofInt 32 (-1024)).toInt < 0 ∧
    (exp64 0x3FF0000000000000#64 : Int) + (1025#32).toInt > 2047 := by decide

/-- `n = 0` and `n = 2047`, the ends of the range (L64-10, L64-05). -/
theorem witness_Ldexp64ReplacesOnlyTheExponent :
    class64 0x3FF0000000000000#64 = .normal ∧
    (exp64 0x3FF0000000000000#64 : Int) + (BitVec.ofInt 32 (-1023)).toInt = 0 ∧
    (exp64 0x3FF0000000000000#64 : Int) + (1024#32).toInt = 2047 := by decide

theorem witness_Ldexp64ExponentLandsOn2047 :
    class64 0x3FF8000000000000#64 = .normal ∧ frac64 0x3FF8000000000000#64 ≠ 0 ∧
    (exp64 0x3FF8000000000000#64 : Int) + (1024#32).toInt = 2047 ∧
    class64 0x3FF0000000000000#64 = .normal ∧ frac64 0x3FF0000000000000#64 = 0 ∧
    (exp64 0x3FF0000000000000#64 : Int) + (1024#32).toInt = 2047 := by decide

theorem witness_Ldexp64ExponentLandsOnZero :
    class64 0x3FF8000000000000#64 = .normal ∧
    (exp64 0x3FF8000000000000#64 : Int) + (BitVec.ofInt 32 (-1023)).toInt = 0 := by decide

/-- `n = 1` and `n = 2046`, the ends of the exact range. -/
theorem witness_Ldexp64ScalesExactly :
    class64 0x3FF0000000000000#64 = .normal ∧
    (exp64 0x3FF0000000000000#64 : Int) + (BitVec.ofInt 32 (-1022)).toInt = 1 ∧
    (exp64 0x3FF0000000000000#64 : Int) + (1023#32).toInt = 2046 := by decide

/-- A `LITERAL` build; `k = 0`; a subnormal with `k = 1`, 2046, 2047, 2048 and -1; an infinity and a
NaN with `k = 1`, and an infinity with `k = -2047` (`n = 0`) and `k = -2048` (`n = -1`). -/
theorem witness_Ldexp64LiteralOutcomes :
    (State.resetOf literalBuild).cfg.oodData = .literal ∧
    isOod (class64 0x0000000000000001#64) = true ∧ class64 0x0000000000000001#64 = .subnormal ∧
    exp64 0x0000000000000001#64 = 0 ∧ (0#32).toInt = 0 ∧ (1#32).toInt = 1 ∧
    (2046#32).toInt = 2046 ∧ (2047#32).toInt = 2047 ∧ (2048#32).toInt = 2048 ∧
    (0xFFFFFFFF#32).toInt = -1 ∧
    isOod (class64 0x7FF0000000000000#64) = true ∧ class64 0x7FF0000000000000#64 = .inf ∧
    isOod (class64 0x7FF8000000000000#64) = true ∧ class64 0x7FF8000000000000#64 = .nan ∧
    (exp64 0x7FF0000000000000#64 : Int) + (BitVec.ofInt 32 (-2047)).toInt = 0 ∧
    (exp64 0x7FF0000000000000#64 : Int) + (BitVec.ofInt 32 (-2048)).toInt < 0 := by decide

theorem witness_Ldexp32Result :
    (State.resetOf withBinary32).cfg.hasBinary32 = true ∧
    isOod (class32 ((0xBF400000#64).extractLsb' 0 32)) = false ∧
    (State.resetOf literalBuild).cfg.hasBinary32 = true ∧
    (State.resetOf literalBuild).cfg.oodData = .literal := by decide

/-- `n = -1`, 256, 255 and 0 (L32-05, L32-04, L32-03, L32-07). -/
theorem witness_Ldexp32Edges :
    (State.resetOf withBinary32).cfg.hasBinary32 = true ∧
    class32 ((0x3FC00000#64).extractLsb' 0 32) = .normal ∧
    (exp32 (low32 0x3FC00000#64) : Int) + (BitVec.ofInt 32 (-128)).toInt < 0 ∧
    (exp32 (low32 0x3FC00000#64) : Int) + (129#32).toInt > 255 ∧
    (exp32 (low32 0x3FC00000#64) : Int) + (128#32).toInt = 255 ∧
    (exp32 (low32 0x3FC00000#64) : Int) + (BitVec.ofInt 32 (-127)).toInt = 0 := by decide

theorem witness_Ldexp32ScalesExactly :
    (State.resetOf withBinary32).cfg.hasBinary32 = true ∧
    class32 ((0x3F800000#64).extractLsb' 0 32) = .normal ∧
    (exp32 (low32 0x3F800000#64) : Int) + (BitVec.ofInt 32 (-126)).toInt = 1 ∧
    (exp32 (low32 0x3F800000#64) : Int) + (127#32).toInt = 254 := by decide

theorem witness_RoundTrip64 :
    class64 0xC008000000000000#64 = .normal ∧ class64 0x8000000000000000#64 = .zero := by decide

theorem witness_RoundTrip32 :
    (State.resetOf withBinary32).cfg.hasBinary32 = true ∧
    (State.resetOf literalBuild).cfg.hasBinary32 = true ∧
    class32 ((0xC0C00000#64).extractLsb' 0 32) = .normal := by decide

theorem witness_IllegalOperationOutputs :
    State.reset.cfg.hasBinary32 = false ∧
    (State.resetOf withBinary32).cfg.hasBinary32 = true := by decide

theorem witness_DomErrMeansOutOfDomain :
    (State.resetOf withBinary32).cfg.hasBinary32 = true := by decide

theorem witness_NanOnlyFromExponentOverflow :
    isOod (class64 0x3FF8000000000000#64) = false ∧
    (State.resetOf withBinary32).cfg.hasBinary32 = true ∧
    isOod (class32 (low32 0x3FC00000#64)) = false := by decide

theorem witness_IgnoredBitsHaveNoEffect :
    (0x3F800000#64).extractLsb' 0 32 = (0xDEADBEEF3F800000#64).extractLsb' 0 32 := by decide

/-- Two different states of one build, and an operand whose data the spec calls `ANY`. -/
theorem witness_OutputsDependOnOwnInputsOnly :
    State.reset.cfg = State.reset.idleCycle.cfg ∧ State.reset.draws ≠ State.reset.idleCycle.draws ∧
    isOod (class64 0x7FF0000000000000#64) = true ∧ State.reset.cfg.oodData = .unspecified := by decide

theorem witness_OperationsChangeNothingElse :
    (State.resetOf twoStages).pipe.length = (State.resetOf twoStages).cfg.latency ∧
    (State.resetOf twoStages).cfg.latency = 2 ∧
    ((State.resetOf twoStages).pipe.getLast?).isSome = true := by decide

theorem witness_StepRunsTheDecodedOperation :
    (State.reset.withFetchWord 104 0).inp.inValid = true ∧
    (State.reset.withFetchWord 104 0).cfg.latency = 0 ∧
    ((State.resetOf twoStages).withFetchWord 104 0).inp.inValid = true ∧
    ((State.resetOf twoStages).withFetchWord 104 0).inp.rst = false := by decide

theorem witness_PlacedWordIsRunNext : 0x3FFFFFFFFFFFFFFFFFFFFFFFF < 2 ^ 98 := by decide

theorem witness_InputsIgnoredWhenNotValid :
    State.reset.inp.inValid = false ∧ State.reset.cfg.latency = 0 ∧
    (State.resetOf twoStages).inp.inValid = false ∧ 0 < (State.resetOf twoStages).cfg.latency := by
  decide

theorem witness_CombinationalWithoutPipeline :
    (State.reset.withFetchWord 104 0).cfg.latency = 0 ∧
    (State.reset.withFetchWord 104 0).inp.inValid = true := by decide

theorem witness_PipelineAdvancesOneStage :
    (State.resetOf twoStages).pipe.length = (State.resetOf twoStages).cfg.latency ∧
    0 < (State.resetOf twoStages).cfg.latency ∧ (State.resetOf twoStages).inp.rst = false := by decide

/-- A state of a two-stage build whose host asserts `rst`. -/
def resetting : State := { State.resetOf twoStages with inp := { InPorts.idle with rst := true } }

theorem witness_ResetEdgeClearsThePipeline :
    resetting.pipe.length = resetting.cfg.latency ∧ 0 < resetting.cfg.latency ∧
    resetting.inp.rst = true := by decide

/-- `n = 1` and `n = P_LATENCY`. -/
theorem witness_NoResultForLatencyCyclesAfterReset :
    resetting.inp.rst = true ∧ 1 ≤ 1 ∧ 1 ≤ resetting.cfg.latency ∧ 2 ≤ resetting.cfg.latency := by
  decide

/-- An operation in a two-stage build with two more behind it, none with `rst`. -/
def threePresented : State :=
  { State.resetOf twoStages with
    inp := .presenting 0#98, queue := [.presenting 1#98, .presenting 2#98] }

theorem witness_ResultShownAfterLatencyCycles :
    (∀ p ∈ (threePresented.inp :: threePresented.queue).take threePresented.cfg.latency,
      p.rst = false) ∧ threePresented.inp.inValid = true := by decide

theorem witness_StepKeepsTheInvariant : State.reset.Inv ∧ ∃ t, step State.reset = .next t := by
  refine ⟨⟨rfl, fun slot h hv => ?_⟩, _, rfl⟩
  rcases List.mem_cons.mp h with rfl | h
  · cases hv
  · cases h

theorem witness_ParametersNeverChange : ∃ t, step State.reset = .next t := ⟨_, rfl⟩

end Sys2Proof.Tests
end

section
/-! The fields of a binary32 pattern, its place in a port word, and the state after reset
(00_scope.md R13, 10_state.md R32, 20_memory.md R42, 40_binary_formats.md R79). -/

namespace Sys2Proof.Machine

/-! ## Patterns as numbers -/

/-- `++` is a weighted sum: the bits of the two parts do not overlap. -/
theorem toNat_append_eq_mul_add {m n : Nat} (hi : BitVec m) (lo : BitVec n) :
    (hi ++ lo).toNat = hi.toNat * 2 ^ n + lo.toNat := by
  rw [BitVec.toNat_append, ← Nat.shiftLeft_add_eq_or_of_lt lo.isLt, Nat.shiftLeft_eq]

theorem toNat_pack32 (s : BitVec 1) (e : BitVec 8) (f : BitVec 23) :
    (pack32 s e f).toNat = s.toNat * 2 ^ 31 + e.toNat * 2 ^ 23 + f.toNat := by
  rw [pack32, toNat_append_eq_mul_add, toNat_append_eq_mul_add]
  omega

/-- A binary32 pattern is its three fields: they are adjacent slices that cover the word. -/
theorem pack32_of_fields (x : Word32) : pack32 (sign32 x) (expField32 x) (fracField32 x) = x := by
  have sign_exp : sign32 x ++ expField32 x = x.extractLsb' 23 9 :=
    BitVec.extractLsb'_append_extractLsb'_eq_extractLsb' rfl
  calc pack32 (sign32 x) (expField32 x) (fracField32 x)
      = x.extractLsb' 23 9 ++ x.extractLsb' 0 23 := by rw [pack32, sign_exp, fracField32]
    _ = x.extractLsb' 0 32 := BitVec.extractLsb'_append_extractLsb'_eq_extractLsb' rfl
    _ = x := BitVec.extractLsb'_eq_self

theorem toNat_eq_fields32 (x : Word32) :
    x.toNat = (sign32 x).toNat * 2 ^ 31 + exp32 x * 2 ^ 23 + frac32 x := by
  rw [exp32, frac32, ← toNat_pack32, pack32_of_fields]

theorem toNat_low32 (x : Word64) : (low32 x).toNat = x.toNat % 2 ^ 32 := by
  rw [low32, BitVec.extractLsb'_toNat, Nat.shiftRight_zero]

theorem toNat_onPort32 (y : Word32) : (onPort32 y).toNat = y.toNat := by
  rw [onPort32, toNat_append_eq_mul_add, BitVec.toNat_ofNat, Nat.zero_mod, Nat.zero_mul,
    Nat.zero_add]

/-! ## The obligations -/

/-- Settles O6: the fields are adjacent slices of the pattern, and packing weighs them by their
positions. -/
theorem binary32FieldsMakeThePattern : Obligations.Binary32FieldsMakeThePattern :=
  ⟨fun x => ⟨toNat_eq_fields32 x, Nat.le_of_lt_succ (exp32_lt x), frac32_lt x,
    pack32_of_fields x⟩, toNat_low32, toNat_onPort32⟩

/-- Settles O50: the stages after reset are `clearedStages`, as many as `P_LATENCY`, with every valid
bit 0. -/
theorem resetLeavesNothingValid : Obligations.ResetLeavesNothingValid := by
  refine ⟨fun c => ⟨State.resetOf_cfg c, ?_, fun slot hslot => ?_, State.resetOf_out_valid c⟩,
    State.resetOf_cfg Config.specDefault⟩
  · rw [State.resetOf_pipe, clearedStages_length]
  · rw [State.resetOf_pipe] at hslot
    exact clearedStages_valid hslot

end Sys2Proof.Machine
end

section
/-! What one clock cycle leaves unchanged, which inputs it reads, and the invariant it keeps
(10_state.md R20, R24, R28, R29, R31; 20_memory.md R44; 60_exceptions.md R141, R142;
70_reset_and_hazards.md R170). -/

namespace Sys2Proof.Machine

/-! ## The pipeline after a cycle without a reset edge -/

theorem State.clock_pipe_zero {s : State} (hpos : 0 < s.cfg.latency) (entering : Slot) :
    (s.clock entering).pipe[0]? = some entering := by
  rw [State.clock_pipe, List.getElem?_take_of_lt hpos, List.getElem?_cons_zero]

theorem State.clock_pipe_succ {s : State} {j : Nat} (hj : j + 1 < s.cfg.latency)
    (entering : Slot) : (s.clock entering).pipe[j + 1]? = s.pipe[j]? := by
  rw [State.clock_pipe, List.getElem?_take_of_lt hj, List.getElem?_cons_succ]

/-- The last stage of a pipeline of `P_LATENCY` stages is the one the ports show. -/
theorem State.lastStage_of_getLast? {s : State} {last : Slot}
    (hlen : s.pipe.length = s.cfg.latency) (hlast : s.pipe.getLast? = some last)
    (entering : Slot) : s.lastStage entering = last := by
  have hpos : 0 < s.cfg.latency :=
    hlen ▸ List.length_pos_of_mem (List.mem_of_getLast? hlast)
  rw [List.getLast?_eq_getElem?, hlen] at hlast
  obtain ⟨stage, hstage, hshown⟩ := State.lastStage_of_pos hlen hpos entering
  exact hshown.trans (Option.some.inj (hstage.symm.trans hlast))

/-! ## What the host's inputs change -/

@[simp] theorem State.nextInputs_withInp (s : State) (p : InPorts) :
    State.nextInputs { s with inp := p } = s.nextInputs := rfl

@[simp] theorem State.nextInputs_lastStage (s : State) (entering : Slot) :
    s.nextInputs.lastStage entering = s.lastStage entering := by
  simp [State.lastStage]

theorem State.resets_eq_false_iff (s : State) :
    s.resets = false ↔ s.cfg.latency = 0 ∨ s.inp.rst = false := by
  simp [State.resets, imp_iff_not_or]

/-- A step reads the input ports only for whether a reset edge comes and which operation is
accepted. -/
theorem step_withInp {s : State} {p : InPorts}
    (hresets : State.resets { s with inp := p } = s.resets)
    (haccepted : State.accepted { s with inp := p } = s.accepted) :
    step { s with inp := p } = step s := by
  simp only [step, hresets, haccepted, State.nextInputs_withInp]

/-- A step that accepts an operation runs it on the state with the host's next input. -/
theorem step_eq_exec {s : State} (hresets : s.resets = false) (hvalid : s.inp.inValid = true) :
    step s = exec (decode s.inp.opw) s.nextInputs := by
  rw [step_of_not_resets hresets, exec_eq_accept, State.accept_eq_clock, State.entering,
    if_pos hvalid, State.nextInputs_cfg]

/-! ## The invariant -/

/-- Only lawful results are shown when only lawful ones stand in the pipeline and enter it. -/
theorem State.shown_lastStage_lawful {s : State} {entering : Slot}
    (hslots : ∀ slot ∈ entering :: s.pipe, slot.valid = true → slot.res.Lawful s.cfg) (n : Nat)
    (hvalid : (shown (s.lastStage entering) n).valid = true) :
    (shown (s.lastStage entering) n).res.Lawful s.cfg := by
  rw [shown_valid] at hvalid
  rw [shown_of_valid hvalid]
  rcases s.lastStage_cases entering with hmem | hinvalid
  · exact hslots _ hmem hvalid
  · rw [hinvalid] at hvalid
    cases hvalid

theorem State.clock_inv {s : State} (h : s.Inv) {entering : Slot}
    (hentering : entering.valid = true → entering.res.Lawful s.cfg) :
    (s.clock entering).Inv := by
  obtain ⟨hlen, hlawful⟩ := h
  have hslots : ∀ slot ∈ entering :: s.pipe, slot.valid = true → slot.res.Lawful s.cfg :=
    List.forall_mem_cons.mpr ⟨hentering, (List.forall_mem_cons.mp hlawful).2⟩
  exact ⟨State.clock_pipe_length hlen entering, List.forall_mem_cons.mpr
    ⟨State.shown_lastStage_lawful hslots s.draws,
      fun slot hslot => hslots slot (List.mem_of_mem_take hslot)⟩⟩

/-- No cleared stage is valid, so none shows an unlawful result. -/
theorem clearedStages_lawful (c : Config) (latency n : Nat) :
    ∀ slot ∈ clearedStages latency n, slot.valid = true → slot.res.Lawful c := by
  intro slot hslot hvalid
  rw [clearedStages_valid hslot] at hvalid
  cases hvalid

theorem State.resetEdge_inv {s : State} (h : s.Inv) : s.resetEdge.Inv := by
  obtain ⟨-, hlawful⟩ := h
  have hslots : ∀ slot ∈ s.bubble :: s.pipe, slot.valid = true → slot.res.Lawful s.cfg :=
    List.forall_mem_cons.mpr ⟨nofun, (List.forall_mem_cons.mp hlawful).2⟩
  exact ⟨clearedStages_length _ _, List.forall_mem_cons.mpr
    ⟨State.shown_lastStage_lawful hslots s.draws, clearedStages_lawful _ _ _⟩⟩

theorem State.nextInputs_inv {s : State} (h : s.Inv) : s.nextInputs.Inv := by
  simpa [State.Inv] using h

theorem State.entering_lawful (s : State) (hvalid : s.entering.valid = true) :
    s.entering.res.Lawful s.cfg := by
  rw [State.entering_valid] at hvalid
  rw [State.entering, if_pos hvalid]
  exact resultOf_lawful s.cfg _

/-- Settles O47: a reset edge leaves no valid stage, any other cycle admits only an operation's
lawful outputs, and what the ports show stood in the pipeline or has just entered. -/
theorem stepKeepsTheInvariant : Obligations.StepKeepsTheInvariant := by
  intro s t hinv hstep
  cases hresets : s.resets with
  | true =>
    obtain rfl : s.nextInputs.resetEdge = t := by simpa [step_of_resets hresets] using hstep
    exact State.resetEdge_inv (State.nextInputs_inv hinv)
  | false =>
    obtain rfl : s.nextInputs.clock s.entering = t := by
      simpa [step_of_not_resets hresets] using hstep
    refine State.clock_inv (State.nextInputs_inv hinv) fun hvalid => ?_
    rw [State.nextInputs_cfg]
    exact s.entering_lawful hvalid

/-- Settles O48: a state after reset has `P_LATENCY` stages, and none of its slots is valid. -/
theorem resetMeetsTheInvariant : Obligations.ResetMeetsTheInvariant :=
  ⟨fun c => ⟨clearedStages_length _ _, List.forall_mem_cons.mpr
    ⟨nofun, clearedStages_lawful c _ _⟩⟩, rfl⟩

/-- Settles O49: a reset edge, an accepting cycle and an idle cycle each keep the parameters. -/
theorem parametersNeverChange : Obligations.ParametersNeverChange := by
  intro s t hstep
  obtain ⟨-, rfl⟩ | ⟨-, -, rfl⟩ | ⟨-, -, rfl⟩ := step_cases hstep <;> exact s.nextInputs_cfg

/-! ## Independence and frame -/

/-- Settles O36: in both states the outputs are `resultOf` of the common build and the operation. -/
theorem outputsDependOnOwnInputsOnly : Obligations.OutputsDependOnOwnInputsOnly := by
  intro i s s' hcfg
  obtain ⟨t, ht, hentered⟩ := exec_entered i s
  obtain ⟨t', ht', hentered'⟩ := exec_entered i s'
  exact ⟨t, t', resultOf s.cfg i, ht, ht', hentered, hcfg ▸ hentered'⟩

/-- Settles O37: an operation is one clock cycle, in which its outputs enter the pipeline. -/
theorem operationsChangeNothingElse : Obligations.OperationsChangeNothingElse := by
  intro i s hlen
  refine ⟨_, exec_eq_accept i s, rfl, rfl, rfl, State.clock_pipe_length hlen _,
    fun j hj => State.clock_pipe_succ hj _, fun last hlast => ?_⟩
  rw [State.accept_eq_clock, State.clock_out, State.lastStage_of_getLast? hlen hlast]
  exact ⟨shown_valid _ _, fun hvalid => shown_of_valid hvalid _⟩

/-! ## The clock cycle -/

/-- Settles O38: without a reset edge the operation on the ports is the one accepted. -/
theorem stepRunsTheDecodedOperation : Obligations.StepRunsTheDecodedOperation := by
  intro s hvalid hnoReset
  refine ⟨step_eq_exec (s.resets_eq_false_iff.mpr hnoReset) hvalid, s.nextInputs_cfg,
    s.nextInputs_pipe, s.nextInputs_out, s.nextInputs_draws,
    fun p q hqueue => s.nextInputs_of_queue_cons hqueue, fun hqueue => ?_⟩
  obtain ⟨hinp, hrest⟩ := s.nextInputs_of_queue_nil hqueue
  rw [hinp]
  exact ⟨rfl, rfl, hrest⟩

/-- Settles O40: with `in_valid = 0` no operation is accepted whatever `op`, `x` and `k` are, and a
bubble enters or the stages are cleared. -/
theorem inputsIgnoredWhenNotValid : Obligations.InputsIgnoredWhenNotValid := by
  intro s op x k hvalid
  have hsame : step { s with inp := { s.inp with op := op, x := x, k := k } } = step s :=
    step_withInp rfl (by simp [State.accepted, hvalid])
  rw [hsame]
  cases hresets : s.resets with
  | true =>
    refine ⟨_, step_of_resets hresets, step_of_resets hresets, fun hzero => ?_,
      fun _ slot hslot => clearedStages_valid (List.mem_of_getElem? hslot)⟩
    rw [s.resets_eq_false_iff.mpr (.inl hzero)] at hresets
    cases hresets
  | false =>
    refine ⟨_, step_of_not_resets hresets, step_of_not_resets hresets, fun hzero => ?_,
      fun hpos slot hslot => ?_⟩
    · rw [State.clock_out, shown_valid, State.nextInputs_lastStage,
        State.lastStage_of_latency_zero hzero, State.entering_valid, hvalid]
    · rw [State.clock_pipe_zero (s.nextInputs_cfg ▸ hpos)] at hslot
      rw [← Option.some.inj hslot, State.entering_valid, hvalid]

/-- Settles O41: without a pipeline no reset edge comes, and the slot that enters is shown. -/
theorem combinationalWithoutPipeline : Obligations.CombinationalWithoutPipeline := by
  intro s b hzero
  have hresets : s.resets = false := s.resets_eq_false_iff.mpr (.inl hzero)
  have hresets' : State.resets { s with inp := { s.inp with rst := b } } = s.resets := by
    rw [hresets, State.resets_eq_false_iff]
    exact .inl hzero
  have hsame : step { s with inp := { s.inp with rst := b } } = step s :=
    step_withInp hresets' (by simp only [State.accepted, hresets']; rfl)
  have hout : (s.nextInputs.clock s.entering).out = shown s.entering s.draws := by
    rw [State.clock_out, State.nextInputs_lastStage, State.lastStage_of_latency_zero hzero,
      State.nextInputs_draws]
  rw [hsame]
  refine ⟨_, step_of_not_resets hresets, step_of_not_resets hresets, ?_, ?_, fun hvalid => ?_⟩
  · rw [hout, shown_valid, State.entering_valid]
  · rw [State.clock_pipe, State.nextInputs_cfg, hzero, List.take_zero]
  · refine ⟨_, exec_eq_accept _ s, ?_⟩
    rw [hout, State.accept_eq_clock, State.clock_out, State.lastStage_of_latency_zero hzero,
      State.entering, if_pos hvalid]
    rfl

/-- Settles O42: a step without a reset edge is `State.clock` of what the inputs give. -/
theorem pipelineAdvancesOneStage : Obligations.PipelineAdvancesOneStage := by
  intro s hlen hpos hrst
  obtain ⟨last, hlast, hshown⟩ := State.lastStage_of_pos hlen hpos s.entering
  have hlen' : s.nextInputs.pipe.length = s.nextInputs.cfg.latency := by simpa using hlen
  have hout : (s.nextInputs.clock s.entering).out = shown last s.draws := by
    rw [State.clock_out, State.nextInputs_lastStage, hshown, State.nextInputs_draws]
  refine ⟨_, s.entering, last, step_of_not_resets (s.resets_eq_false_iff.mpr (.inr hrst)),
    ?_, State.clock_pipe_zero (s.nextInputs_cfg ▸ hpos) _, s.entering_valid, fun hvalid => ?_,
    fun j hj => ?_, hlast, ?_, fun hvalid => ?_⟩
  · rw [State.clock_pipe_length hlen', State.nextInputs_cfg]
  · rw [State.entering, if_pos hvalid]
    exact exec_entered _ s
  · rw [State.clock_pipe_succ (s.nextInputs_cfg.symm ▸ hj), State.nextInputs_pipe]
  · rw [hout, shown_valid]
  · rw [hout, shown_of_valid hvalid]

end Sys2Proof.Machine
end

section
/-! The binary32 operand of a port word and the outputs of FREXP32 and LDEXP32 (20_memory.md R42,
40_binary_formats.md R78, R81; 41_decompose.md R100 to R103; 42_recompose.md R120 to R129). -/

namespace Sys2Proof.Machine

/-! ## The operand on the port -/

theorem sign32_low32 (x : Word64) : sign32 (low32 x) = x.extractLsb' 31 1 :=
  BitVec.extractLsb'_extractLsb'_of_le (by decide)

theorem expField32_low32 (x : Word64) : expField32 (low32 x) = x.extractLsb' 23 8 :=
  BitVec.extractLsb'_extractLsb'_of_le (by decide)

theorem fracField32_low32 (x : Word64) : fracField32 (low32 x) = x.extractLsb' 0 23 :=
  BitVec.extractLsb'_extractLsb'_of_le (by decide)

theorem exp32_low32 (x : Word64) : exp32 (low32 x) = (x.extractLsb' 23 8).toNat := by
  rw [exp32, expField32_low32]

theorem isZero32_low32 (x : Word64) : isZero32 (low32 x) = true ↔ x.extractLsb' 0 31 = 0#31 := by
  rw [isZero32, low32, BitVec.extractLsb'_extractLsb'_of_le (by decide), beq_iff_eq]

@[simp] theorem extractLsb'_high_onPort32 (y : Word32) : (onPort32 y).extractLsb' 32 32 = 0#32 :=
  BitVec.extractLsb'_append_eq_left

/-! ## Zeros among the classes -/

/-- The zero test and the class agree: `x[30:0]` is the exponent field above the fraction field. -/
theorem isZero32_iff_class32_zero (x : Word32) : isZero32 x = true ↔ class32 x = .zero := by
  have fields : expField32 x ++ fracField32 x = x.extractLsb' 0 31 :=
    BitVec.extractLsb'_append_extractLsb'_eq_extractLsb' rfl
  rw [isZero32, beq_iff_eq, ← fields, ← BitVec.toNat_inj, toNat_append_eq_mul_add, class32,
    classOf_eq_zero, exp32, frac32, BitVec.toNat_ofNat]
  omega

theorem isZero32_eq_false_of_class32_ne_zero {x : Word32} (h : class32 x ≠ .zero) :
    isZero32 x = false :=
  Bool.eq_false_iff.mpr fun hzero => h ((isZero32_iff_class32_zero x).mp hzero)

theorem class32_ne_zero_of_isOod {x : Word32} (h : isOod (class32 x) = true) :
    class32 x ≠ .zero := by
  intro hzero
  rw [hzero] at h
  cases h

theorem domErr32_of_isZero {x : Word32} (h : isZero32 x = true) : domErr32 x = false := by
  rw [domErr32, (isZero32_iff_class32_zero x).mp h, isOod]

theorem domErr32_low32 (x : Word64) :
    domErr32 (low32 x) = isOod (class32 (x.extractLsb' 0 32)) := rfl

/-! ## What is driven -/

/-- Where the steps and the free data are binary32 words on the port, the upper half driven is 0. -/
theorem drive_high_half {p : OodData} {ood : Bool} {steps free : Word64 × Word32} {y y' : Word32}
    (hsteps : steps.1 = onPort32 y) (hfree : free.1 = onPort32 y') :
    (drive p ood steps free).y.extractLsb' 32 32 = 0#32 := by
  cases p <;> cases ood <;> simp [drive, hsteps, hfree]

/-- The data of the steps are driven for an in-domain operand and in a `LITERAL` build. -/
theorem drive_eq_steps {p : OodData} {ood : Bool} (h : ood = false ∨ p = .literal)
    (steps free : Word64 × Word32) :
    drive p ood steps free = { y := steps.1, e := steps.2, domErr := ood, illOp := false } := by
  obtain rfl | rfl := h
  · exact drive_of_inDomain p steps free
  · exact drive_literal ood steps free

/-! ## FREXP32 -/

theorem frexp32Result_of_hasBinary32 {c : Config} (h : c.hasBinary32 = true) (x : Word32) :
    frexp32Result c x = drive c.oodData (domErr32 x) (frexp32Steps x) (frexp32Free c x) :=
  if_pos h

theorem frexp32Steps_of_isZero {x : Word32} (h : isZero32 x = true) :
    frexp32Steps x = (0#64, 0#32) := if_pos h

/-- The steps of R100 for an operand that is not zero, in the bits of the port word. -/
theorem frexp32Steps_low32 {x : Word64} (h : isZero32 (low32 x) = false) :
    frexp32Steps (low32 x) =
      (onPort32 (x.extractLsb' 31 1 ++ 0x7E#8 ++ x.extractLsb' 0 23),
        BitVec.ofInt 32 (((x.extractLsb' 23 8).toNat : Int) - 126)) := by
  have exponent : (exp32 (low32 x) : Int) - 127 + 1 = exp32 (low32 x) - 126 := by omega
  rw [frexp32Steps, h, exponent, pack32, sign32_low32, fracField32_low32, exp32_low32]
  rfl

theorem frexp32Steps_onPort32 (x : Word32) : ∃ y, (frexp32Steps x).1 = onPort32 y := by
  unfold frexp32Steps
  split <;> exact ⟨_, rfl⟩

/-- Settles O15: the outputs are those of the steps of R100 for a zero, for a NORMAL operand and in a
`LITERAL` build; the upper half is 0 whatever is driven. -/
theorem frexp32Result_outputs : Obligations.Frexp32Result := by
  intro x k s hb
  obtain ⟨t, ht, hentered⟩ := exec_entered (.frexp32 x k) s
  rw [resultOf, frexp32Result_of_hasBinary32 hb] at hentered
  refine ⟨fun hzero => ⟨t, ht, ?_⟩, fun hnormal => ⟨t, ht, ?_⟩, fun hood => ?_⟩
  · have hz : isZero32 (low32 x) = true := (isZero32_low32 x).mpr hzero
    rw [hentered, domErr32_of_isZero hz, drive_of_inDomain, frexp32Steps_of_isZero hz]
  · have hz : isZero32 (low32 x) = false :=
      isZero32_eq_false_of_class32_ne_zero (hnormal.trans_ne nofun)
    rw [hentered, domErr32_low32, hnormal, isOod, drive_of_inDomain, frexp32Steps_low32 hz]
    rfl
  · have hz : isZero32 (low32 x) = false :=
      isZero32_eq_false_of_class32_ne_zero (class32_ne_zero_of_isOod hood)
    obtain ⟨y, hy⟩ := frexp32Steps_onPort32 (low32 x)
    refine ⟨t, _, ht, hentered, (drive_domErr _ _ _ _).trans hood, drive_illOp _ _ _ _,
      drive_high_half hy rfl, fun hliteral => ?_⟩
    rw [drive_eq_steps (.inr hliteral), frexp32Steps_low32 hz]
    exact ⟨rfl, rfl⟩

/-! ## LDEXP32 -/

theorem ldexp32Result_of_hasBinary32 {c : Config} (h : c.hasBinary32 = true) (x : Word32)
    (k : Word32) :
    ldexp32Result c x k =
      drive c.oodData (domErr32 x) (onPort32 (ldexp32Steps x k), 0#32) (ldexp32Free c x k) :=
  if_pos h

theorem eq_zero_iff_toInt_eq_zero (k : Word32) : k = 0#32 ↔ k.toInt = 0 := by
  rw [← BitVec.toInt_inj, BitVec.toInt_zero]

/-- The steps of R120 in the bits of the port word. -/
theorem ldexp32Steps_low32 (x : Word64) (k : Word32) :
    ldexp32Steps (low32 x) k =
      if x.extractLsb' 0 31 = 0#31 ∨ k.toInt = 0 then x.extractLsb' 0 32
      else if ((x.extractLsb' 23 8).toNat : Int) + k.toInt < 0 ∨
          ((x.extractLsb' 23 8).toNat : Int) + k.toInt > 255 then
        x.extractLsb' 31 1 ++ 0xFF#8 ++ 0#23
      else x.extractLsb' 31 1 ++
        BitVec.ofInt 8 (((x.extractLsb' 23 8).toNat : Int) + k.toInt) ++
        x.extractLsb' 0 23 := by
  have noOp : (isZero32 (low32 x) || k == 0#32) = true ↔
      x.extractLsb' 0 31 = 0#31 ∨ k.toInt = 0 := by
    rw [Bool.or_eq_true, isZero32_low32, beq_iff_eq, eq_zero_iff_toInt_eq_zero]
  simp only [ldexp32Steps, noOp, newExp, pack32, sign32_low32, fracField32_low32, exp32_low32]
  rfl

/-- Settles O26: what is driven is on the port with `e = 0`, and for an in-domain operand or in a
`LITERAL` build it is the word of the steps of R120. -/
theorem ldexp32Result_outputs : Obligations.Ldexp32Result := by
  intro x k s hb
  obtain ⟨t, ht, hentered⟩ := exec_entered (.ldexp32 x k) s
  rw [resultOf, ldexp32Result_of_hasBinary32 hb] at hentered
  refine ⟨t, _, ht, hentered, drive_illOp _ _ _ _, drive_e_of_eq rfl rfl,
    drive_high_half rfl rfl, drive_domErr _ _ _ _, fun hsteps => ?_⟩
  rw [domErr32_low32, drive_eq_steps hsteps, ← ldexp32Steps_low32]
  exact low32_onPort32 _

end Sys2Proof.Machine
end

section
/-! The operation word and its decoder, the operand bits an operation does not read, and the exponent
sum (30_encoding.md R50 to R57, 42_recompose.md R112 to R114, 60_exceptions.md R142). -/

namespace Sys2Proof

/-! ## The word and its operation -/

/-- The four rows of the table of R50. -/
theorem opField_cases (op : OpField) :
    op = 0b00#2 ∨ op = 0b01#2 ∨ op = 0b10#2 ∨ op = 0b11#2 := by
  revert op; decide

theorem encode_decodeFields (op : OpField) (k : Word32) (x : Word64) :
    encode (decodeFields op k x) = opw op k x := by
  obtain rfl | rfl | rfl | rfl := opField_cases op <;> rfl

theorem encode_decode (w : Opw) : encode (decode w) = w := by
  rw [decode, encode_decodeFields, opw_of_fields]

theorem decode_encode (i : Instr) : decode (encode i) = i := by
  cases i <;> exact decode_opw _ _ _

/-- Settles O1: a word is its three fields, and the field `op` names the constructor. -/
theorem decodeInvertsEncode : Obligations.DecodeInvertsEncode := ⟨decode_encode, encode_decode⟩

/-- Settles O2: the fields of `op ++ k ++ x` are `op`, `k` and `x`. -/
theorem opFieldSelectsOperation : Obligations.OpFieldSelectsOperation := fun _ _ _ =>
  ⟨⟨decode_opw _ _ _, rfl⟩, ⟨decode_opw _ _ _, rfl⟩, ⟨decode_opw _ _ _, Iff.rfl⟩,
    ⟨decode_opw _ _ _, Iff.rfl⟩⟩

/-! ## The decoder of a configuration -/

theorem getLsbD_opOf_one (w : Opw) : (opOf w).getLsbD 1 = w.getLsbD 97 := by
  rw [opOf, BitVec.getLsbD_extractLsb']
  rfl

/-- A configuration lacks the operation exactly where the format bit asks for the option it lacks. -/
theorem existsIn_decodeFields_eq_false_iff (c : Config) (op : OpField) (k : Word32) (x : Word64) :
    (decodeFields op k x).existsIn c = false ↔ op.getLsbD 1 = true ∧ c.hasBinary32 = false := by
  obtain rfl | rfl | rfl | rfl := opField_cases op <;> simp [decodeFields, Instr.existsIn]

theorem existsIn_decode_eq_false_iff (c : Config) (w : Opw) :
    (decode w).existsIn c = false ↔ w.getLsbD 97 = true ∧ c.hasBinary32 = false := by
  rw [decode, existsIn_decodeFields_eq_false_iff, getLsbD_opOf_one]

theorem decodeIn_toNat (c : Config) (w : Opw) :
    decodeIn c w.toNat =
      if (decode w).existsIn c then .ok (decode w) else .error (.illegalOp (opOf w)) := by
  rw [decodeIn, if_pos w.isLt, BitVec.ofNat_toNat, BitVec.setWidth_eq]

theorem decodeTableWord_of_lt {w : Nat} (h : w < 2 ^ 98) :
    decodeTableWord 104 w = some (decode (BitVec.ofNat 98 w)) :=
  if_pos ⟨h.trans (by decide), h⟩

/-- Settles O3: the decoder asks only whether the configuration has the operation of the word. -/
theorem decoderIsTotalByOpAndOption : Obligations.DecoderIsTotalByOpAndOption := by
  intro c w
  rw [← existsIn_decode_eq_false_iff, decodeIn_toNat]
  cases (decode w).existsIn c <;> simp [opOf]

end Sys2Proof

namespace Sys2Proof.Machine

/-! ## A word on the ports -/

theorem InPorts.opw_presenting (w : Opw) : (InPorts.presenting w).opw = w := opw_of_fields w

/-- A placed word is accepted, as its cycle neither resets nor lacks `in_valid`. -/
theorem step_withFetchWord (s : State) {w : Nat} (h : w < 2 ^ 98) :
    step (s.withFetchWord 104 w) =
      exec (decode (BitVec.ofNat 98 w)) (s.withFetchWord 104 w).nextInputs := by
  have hports : (s.withFetchWord 104 w).inp = .presenting (BitVec.ofNat 98 w) := by
    rw [State.withFetchWord, Nat.mod_eq_of_lt (h.trans (by decide))]
  have hresets : (s.withFetchWord 104 w).resets = false :=
    (State.resets_eq_false_iff _).mpr (.inr rfl)
  rw [step_eq_exec hresets rfl, hports, InPorts.opw_presenting]

/-- Settles O39: the operation of a word is its decoding, and its step runs that. -/
theorem placedWordIsRunNext : Obligations.PlacedWordIsRunNext := fun s _ hw =>
  ⟨_, decodeTableWord_of_lt hw, encode_decode _, step_withFetchWord s hw⟩

/-! ## The ILLEGAL result and the ignored bits -/

theorem exec_eq_of_resultOf_eq {i j : Instr} {s : State}
    (h : resultOf s.cfg i = resultOf s.cfg j) :
    ∃ t, exec i s = .next t ∧ exec j s = .next t :=
  ⟨_, exec_eq_accept i s, h ▸ exec_eq_accept j s⟩

theorem frexp32Result_of_not_hasBinary32 {c : Config} (h : c.hasBinary32 = false) (x : Word32) :
    frexp32Result c x = illegalResult := by
  rw [frexp32Result, h]
  rfl

theorem ldexp32Result_of_not_hasBinary32 {c : Config} (h : c.hasBinary32 = false) (x k : Word32) :
    ldexp32Result c x k = illegalResult := by
  rw [ldexp32Result, h]
  rfl

/-- A lawful result is ILLEGAL only in a build without binary32. -/
theorem resultOf_illOp_of_hasBinary32 {c : Config} (h : c.hasBinary32 = true) (i : Instr) :
    (resultOf c i).illOp = false := by
  obtain ⟨-, hillegal⟩ := resultOf_lawful c i
  refine Bool.eq_false_iff.mpr fun hillOp => ?_
  obtain ⟨hwithout, -, -⟩ := hillegal hillOp
  rw [h] at hwithout
  cases hwithout

/-- Settles O32: without the option both operations have the outputs `illegalResult`; with it no
lawful result has `ill_op = 1`. -/
theorem illegalOperationOutputs : Obligations.IllegalOperationOutputs := by
  refine ⟨fun x x' k k' s hwithout => ?_, fun i s hwith => ?_⟩
  · have hfrexp : resultOf s.cfg (.frexp32 x k) = illegalResult :=
      frexp32Result_of_not_hasBinary32 hwithout _
    have hldexp : resultOf s.cfg (.ldexp32 x' k') = illegalResult :=
      ldexp32Result_of_not_hasBinary32 hwithout _ _
    exact ⟨s.accept illegalResult, hfrexp ▸ exec_eq_accept _ s, hldexp ▸ exec_eq_accept _ s,
      s.accept_entered _⟩
  · obtain ⟨t, ht, hentered⟩ := exec_entered i s
    exact ⟨t, _, ht, hentered, resultOf_illOp_of_hasBinary32 hwith i⟩

/-- Settles O35: `resultOf` of Decompose has no argument `k`, and that of a binary32 operation reads
`x` through `low32` alone. -/
theorem ignoredBitsHaveNoEffect : Obligations.IgnoredBitsHaveNoEffect := by
  intro x x' k k' s
  refine ⟨exec_eq_of_resultOf_eq rfl, fun hlow => ?_⟩
  have hoperand : low32 x = low32 x' := hlow
  exact ⟨exec_eq_of_resultOf_eq (congrArg (frexp32Result s.cfg) hoperand),
    exec_eq_of_resultOf_eq (congrArg (ldexp32Result s.cfg · k) hoperand)⟩

/-! ## The exponent sum -/

/-- R113: the sum lies between `-2^31` and `2^31 + 2046`. -/
theorem newExp_bounds (x : Word64) (k : Word32) :
    -(2 ^ 31) ≤ newExp (exp64 x) k ∧ newExp (exp64 x) k ≤ 2 ^ 31 + 2046 := by
  have hexp := exp64_lt x
  have hlow := BitVec.le_toInt k
  have hhigh := BitVec.toInt_lt (x := k)
  unfold newExp
  omega

/-- A wrapping adder of any width gives the exact sum modulo `2^w`. -/
theorem toInt_zeroExtend_add {m w : Nat} (e : BitVec m) (a : BitVec w) :
    (e.zeroExtend w + a).toInt = ((e.toNat : Int) + a.toInt).bmod (2 ^ w) := by
  rw [BitVec.toInt_add, BitVec.zeroExtend, BitVec.toInt_setWidth, Int.bmod_add_bmod]

/-- R114: 34 bits hold the sum, so that adder does not wrap. -/
theorem adder34_eq_newExp (x : Word64) (k : Word32) :
    ((expField64 x).zeroExtend 34 + k.signExtend 34).toInt = newExp (exp64 x) k := by
  obtain ⟨hlow, hhigh⟩ := newExp_bounds x k
  calc ((expField64 x).zeroExtend 34 + k.signExtend 34).toInt
      = (newExp (exp64 x) k).bmod (2 ^ 34) := by
        rw [toInt_zeroExtend_add, BitVec.toInt_signExtend_of_le (by decide), newExp, exp64]
    _ = newExp (exp64 x) k := Int.bmod_eq_of_le (by omega) (by omega)

/-- R114: a 32-bit adder wraps only sums from `2^31` on, and those to negative numbers. -/
theorem adder32_saturates_iff (x : Word64) (k : Word32) :
    (newExp (exp64 x) k < 0 ∨ newExp (exp64 x) k > 2047) ↔
      (((expField64 x).zeroExtend 32 + k).toInt < 0 ∨
        ((expField64 x).zeroExtend 32 + k).toInt > 2047) := by
  obtain ⟨hlow, hhigh⟩ := newExp_bounds x k
  have hadder : ((expField64 x).zeroExtend 32 + k).toInt = (newExp (exp64 x) k).bmod (2 ^ 32) :=
    toInt_zeroExtend_add _ _
  rw [hadder]
  by_cases hwraps : newExp (exp64 x) k < 2 ^ 31
  · rw [Int.bmod_eq_of_le (by omega) (by omega)]
  · have hwrapped : (newExp (exp64 x) k).bmod (2 ^ 32) = newExp (exp64 x) k - 2 ^ 32 := by
      rw [← Int.sub_bmod_right]
      exact Int.bmod_eq_of_le (by omega) (by omega)
    omega

/-- Settles O24: 1.0 with `k = 2^12` is a sum a 12-bit adder loses, as it drops all of `k`. -/
theorem exponentSumIsExact : Obligations.ExponentSumIsExact := by
  refine ⟨fun x k => ?_, 0x3FF0000000000000#64, 4096#32, by decide⟩
  obtain ⟨hlow, hhigh⟩ := newExp_bounds x k
  exact ⟨rfl, hlow, hhigh, adder34_eq_newExp x k, adder32_saturates_iff x k⟩

end Sys2Proof.Machine
end

section
/-! The fields of a binary64 pattern, the class of every pattern of both formats, and the domain that
`dom_err` reports (40_binary_formats.md R70, R73, R74, R76, R77, R81; 41_decompose.md R90, R93). -/

namespace Sys2Proof.Machine

/-! ## The fields of a binary64 pattern -/

theorem toNat_pack64 (s : BitVec 1) (e : BitVec 11) (f : BitVec 52) :
    (pack64 s e f).toNat = s.toNat * 2 ^ 63 + e.toNat * 2 ^ 52 + f.toNat := by
  rw [pack64, toNat_append_eq_mul_add, toNat_append_eq_mul_add]
  omega

/-- A binary64 pattern is its three fields: they are adjacent slices that cover the word. -/
theorem pack64_of_fields (x : Word64) : pack64 (sign64 x) (expField64 x) (fracField64 x) = x := by
  have sign_exp : sign64 x ++ expField64 x = x.extractLsb' 52 12 :=
    BitVec.extractLsb'_append_extractLsb'_eq_extractLsb' rfl
  calc pack64 (sign64 x) (expField64 x) (fracField64 x)
      = x.extractLsb' 52 12 ++ x.extractLsb' 0 52 := by rw [pack64, sign_exp, fracField64]
    _ = x.extractLsb' 0 64 := BitVec.extractLsb'_append_extractLsb'_eq_extractLsb' rfl
    _ = x := BitVec.extractLsb'_eq_self

theorem toNat_eq_fields64 (x : Word64) :
    x.toNat = (sign64 x).toNat * 2 ^ 63 + exp64 x * 2 ^ 52 + frac64 x := by
  rw [exp64, frac64, ← toNat_pack64, pack64_of_fields]

/-- Settles O5: the fields are adjacent slices of the pattern, and packing weighs them by their
positions. -/
theorem binary64FieldsMakeThePattern : Obligations.Binary64FieldsMakeThePattern := fun x =>
  ⟨toNat_eq_fields64 x, Nat.le_of_lt_succ (exp64_lt x), frac64_lt x, pack64_of_fields x⟩

/-! ## The class table -/

section ClassTable

variable {emax expo frac : Nat}

theorem classOf_eq_normal_iff_between (hle : expo ≤ emax) :
    classOf emax expo frac = .normal ↔ 1 ≤ expo ∧ expo ≤ emax - 1 := by
  rw [classOf_eq_normal]
  omega

theorem classOf_eq_inf_of_pos (hpos : 0 < emax) :
    classOf emax expo frac = .inf ↔ expo = emax ∧ frac = 0 := by
  rw [classOf_eq_inf]
  omega

theorem classOf_eq_nan_of_pos (hpos : 0 < emax) :
    classOf emax expo frac = .nan ↔ expo = emax ∧ frac ≠ 0 := by
  rw [classOf_eq_nan]
  omega

theorem isOod_eq_true_iff (c : FpClass) :
    isOod c = true ↔ c = .subnormal ∨ c = .inf ∨ c = .nan := by
  cases c <;> simp [isOod]

/-- The domain of R76 in the fields: INF and NAN together are the all-ones exponent. -/
theorem isOod_classOf_iff (hpos : 0 < emax) :
    isOod (classOf emax expo frac) = true ↔ (expo = 0 ∧ frac ≠ 0) ∨ expo = emax := by
  rw [isOod_eq_true_iff, classOf_eq_subnormal, classOf_eq_inf_of_pos hpos,
    classOf_eq_nan_of_pos hpos]
  omega

end ClassTable

/-- Below the top bit a word is 0 in two patterns: 0 and the top bit alone. -/
theorem extractLsb'_below_msb_eq_zero_iff {w : Nat} (x : BitVec (w + 1)) :
    x.extractLsb' 0 w = 0#w ↔ x = 0#(w + 1) ∨ x = BitVec.twoPow (w + 1) w := by
  have hlow : (x.extractLsb' 0 w).toNat = x.toNat % 2 ^ w := by
    rw [BitVec.extractLsb'_toNat, Nat.shiftRight_zero]
  have hlt : x.toNat < 2 ^ w * 2 := Nat.pow_succ 2 w ▸ x.isLt
  have htop : 2 ^ w % 2 ^ (w + 1) = 2 ^ w := Nat.mod_eq_of_lt (Nat.pow_lt_pow_succ (by decide))
  rw [← BitVec.toNat_inj, ← BitVec.toNat_inj, ← BitVec.toNat_inj, hlow, BitVec.toNat_twoPow, htop,
    BitVec.toNat_ofNat, BitVec.toNat_ofNat, Nat.zero_mod, Nat.zero_mod, ← Nat.dvd_iff_mod_eq_zero]
  constructor
  · rintro ⟨q, hq⟩
    have hq2 : q < 2 := Nat.lt_of_mul_lt_mul_left (hq ▸ hlt)
    obtain rfl | rfl : q = 0 ∨ q = 1 := by omega
    · exact .inl hq
    · exact .inr (hq.trans (Nat.mul_one _))
  · rintro (hx | hx)
    · exact hx ▸ dvd_zero _
    · exact hx ▸ dvd_rfl

/-! ## The class of a binary64 pattern -/

theorem isZero64_iff (x : Word64) : isZero64 x = true ↔ x.extractLsb' 0 63 = 0#63 := beq_iff_eq

theorem isZero64_iff_pattern (x : Word64) :
    isZero64 x = true ↔ x = 0x0000000000000000#64 ∨ x = 0x8000000000000000#64 :=
  (isZero64_iff x).trans (extractLsb'_below_msb_eq_zero_iff x)

/-- The zero test and the class agree: `x[62:0]` is the exponent field above the fraction field. -/
theorem isZero64_iff_class64_zero (x : Word64) : isZero64 x = true ↔ class64 x = .zero := by
  have fields : expField64 x ++ fracField64 x = x.extractLsb' 0 63 :=
    BitVec.extractLsb'_append_extractLsb'_eq_extractLsb' rfl
  rw [isZero64_iff, ← fields, ← BitVec.toNat_inj, toNat_append_eq_mul_add, class64,
    classOf_eq_zero, exp64, frac64, BitVec.toNat_ofNat]
  omega

theorem isZero64_eq_false_of_class64_ne_zero {x : Word64} (h : class64 x ≠ .zero) :
    isZero64 x = false :=
  Bool.eq_false_iff.mpr fun hzero => h ((isZero64_iff_class64_zero x).mp hzero)

theorem class64_eq_normal_iff (x : Word64) :
    class64 x = .normal ↔ 1 ≤ exp64 x ∧ exp64 x ≤ 2046 :=
  classOf_eq_normal_iff_between (Nat.le_of_lt_succ (exp64_lt x))

/-- Settles O7: the class table in the fields, with the exponent field at most 2047. -/
theorem classOfEveryBinary64Pattern : Obligations.ClassOfEveryBinary64Pattern := fun x =>
  ⟨classOf_eq_zero, classOf_eq_subnormal, class64_eq_normal_iff x,
    classOf_eq_inf_of_pos (by decide), classOf_eq_nan_of_pos (by decide),
    isZero64_iff x, isZero64_iff_pattern x, isZero64_iff_class64_zero x⟩

/-! ## The class of a binary32 pattern -/

theorem isZero32_iff_pattern (x : Word32) :
    isZero32 x = true ↔ x = 0x00000000#32 ∨ x = 0x80000000#32 :=
  beq_iff_eq.trans (extractLsb'_below_msb_eq_zero_iff x)

theorem class32_eq_normal_iff (x : Word32) :
    class32 x = .normal ↔ 1 ≤ exp32 x ∧ exp32 x ≤ 254 :=
  classOf_eq_normal_iff_between (Nat.le_of_lt_succ (exp32_lt x))

/-- Settles O8: the class table in the fields, with the exponent field at most 255. -/
theorem classOfEveryBinary32Pattern : Obligations.ClassOfEveryBinary32Pattern := fun x =>
  ⟨classOf_eq_zero, classOf_eq_subnormal, class32_eq_normal_iff x,
    classOf_eq_inf_of_pos (by decide), classOf_eq_nan_of_pos (by decide),
    isZero32_iff_pattern x, isZero32_iff_class32_zero x⟩

/-! ## The exponent of FREXP64 -/

theorem domErr64_of_normal {x : Word64} (h : class64 x = .normal) : domErr64 x = false := by
  rw [domErr64, h, isOod]

/-- The steps of R90 for an operand that is not zero. -/
theorem frexp64Steps_of_not_isZero {x : Word64} (h : isZero64 x = false) :
    frexp64Steps x =
      (pack64 (sign64 x) 0x3FE#11 (fracField64 x), BitVec.ofInt 32 ((exp64 x : Int) - 1022)) := by
  have exponent : (exp64 x : Int) - 1023 + 1 = exp64 x - 1022 := by omega
  rw [frexp64Steps, h, exponent]
  rfl

/-- R92, R93: the outputs of FREXP64 for a NORMAL operand. -/
theorem frexp64Result_of_normal (c : Config) {x : Word64} (h : class64 x = .normal) :
    frexp64Result c x =
      { y := pack64 (sign64 x) 0x3FE#11 (fracField64 x),
        e := BitVec.ofInt 32 ((exp64 x : Int) - 1022), domErr := false, illOp := false } := by
  have hz : isZero64 x = false := isZero64_eq_false_of_class64_ne_zero (h.trans_ne nofun)
  rw [frexp64Result, domErr64_of_normal h, drive_of_inDomain, frexp64Steps_of_not_isZero hz]

/-- The exponent of R93 fits in 32 bits for every exponent field, so it does not wrap. -/
theorem toInt_ofInt_exp64_sub (x : Word64) :
    (BitVec.ofInt 32 ((exp64 x : Int) - 1022)).toInt = exp64 x - 1022 := by
  have hexp := exp64_lt x
  exact BitVec.toInt_ofInt_eq_self (by decide) (by omega) (by omega)

/-- Settles O11: `E - 1022` does not wrap, and `E` lies between 1 and 2046. -/
theorem frexp64ExponentDoesNotWrap : Obligations.Frexp64ExponentDoesNotWrap := by
  intro x k s hnormal
  obtain ⟨t, ht, hentered⟩ := exec_entered (.frexp64 x k) s
  rw [resultOf, frexp64Result_of_normal s.cfg hnormal] at hentered
  obtain ⟨hlow, hhigh⟩ := (class64_eq_normal_iff x).mp hnormal
  refine ⟨t, _, ht, hentered, toInt_ofInt_exp64_sub x, ?_⟩
  rw [toInt_ofInt_exp64_sub]
  omega

/-! ## The domain -/

theorem domErr64_iff (x : Word64) :
    domErr64 x = true ↔ (exp64 x = 0 ∧ frac64 x ≠ 0) ∨ exp64 x = 2047 :=
  isOod_classOf_iff (by decide)

theorem domErr32_iff (x : Word32) :
    domErr32 x = true ↔ (exp32 x = 0 ∧ frac32 x ≠ 0) ∨ exp32 x = 255 :=
  isOod_classOf_iff (by decide)

/-- An operation whose outputs `drive` gives is legal, and its `dom_err` is what `drive` was told. -/
theorem exec_domErr_iff {i : Instr} {s : State} {p : OodData} {ood : Bool}
    {steps free : Word64 × Word32} {outOfDomain : Prop}
    (hresult : resultOf s.cfg i = drive p ood steps free) (hood : ood = true ↔ outOfDomain) :
    ∃ t r, exec i s = .next t ∧ t.entered = some ⟨true, r⟩ ∧ r.illOp = false ∧
      (r.domErr = true ↔ outOfDomain) := by
  obtain ⟨t, ht, hentered⟩ := exec_entered i s
  refine ⟨t, _, ht, hentered, ?_⟩
  rw [hresult, drive_illOp, drive_domErr]
  exact ⟨rfl, hood⟩

/-- Settles O33: the outputs of each operation the build has are given by `drive`, with the domain
test of its format. -/
theorem domErrMeansOutOfDomain : Obligations.DomErrMeansOutOfDomain := fun x _ _ =>
  ⟨exec_domErr_iff rfl (domErr64_iff x), exec_domErr_iff rfl (domErr64_iff x), fun hb =>
    ⟨exec_domErr_iff (frexp32Result_of_hasBinary32 hb _) (domErr32_iff (low32 x)),
      exec_domErr_iff (ldexp32Result_of_hasBinary32 hb _ _) (domErr32_iff (low32 x))⟩⟩

end Sys2Proof.Machine
end

section
/-! The value of a pattern and its negation, the outputs of FREXP64 class by class, and what Recompose
makes of them (40_binary_formats.md R70 to R75, R83; 41_decompose.md R90 to R95; 42_recompose.md R110
to R118, R128). -/

namespace Sys2Proof.Machine

/-! ## The value of a pattern -/

/-- The factor `(-1)^s` of R71. -/
def signFactor (s : BitVec 1) : ℚ := if s = 1#1 then -1 else 1

/-- `1.f` as a number: the significand of a NORMAL pattern (R71). -/
def significand (fw frac : Nat) : ℚ := 1 + frac / 2 ^ fw

theorem valueOf_normal (bias fw : Nat) (s : BitVec 1) (expo frac : Nat) :
    valueOf bias fw .normal s expo frac =
      some (signFactor s * (2 : ℚ) ^ ((expo : ℤ) - bias) * significand fw frac) := rfl

theorem valueOf_subnormal (bias fw : Nat) (s : BitVec 1) (expo frac : Nat) :
    valueOf bias fw .subnormal s expo frac =
      some (signFactor s * (2 : ℚ) ^ (1 - (bias : ℤ) - fw) * frac) := rfl

theorem signFactor_not (s : BitVec 1) : signFactor (~~~s) = -signFactor s := by
  obtain rfl | rfl := BitVec.eq_zero_or_eq_one s <;> simp [signFactor]

theorem abs_signFactor (s : BitVec 1) : |signFactor s| = 1 := by
  obtain rfl | rfl := BitVec.eq_zero_or_eq_one s <;> simp [signFactor]

theorem valueOf_not (bias fw : Nat) (cls : FpClass) (s : BitVec 1) (expo frac : Nat) :
    valueOf bias fw cls (~~~s) expo frac =
      (valueOf bias fw cls s expo frac).map (fun v => -v) := by
  cases cls with
  | zero => exact congrArg some neg_zero.symm
  | subnormal =>
    rw [valueOf_subnormal, valueOf_subnormal, signFactor_not, Option.map_some, neg_mul, neg_mul]
  | normal =>
    rw [valueOf_normal, valueOf_normal, signFactor_not, Option.map_some, neg_mul, neg_mul]
  | inf => rfl
  | nan => rfl

theorem one_le_significand (fw frac : Nat) : 1 ≤ significand fw frac :=
  le_add_of_nonneg_right (by positivity)

theorem one_lt_significand {fw frac : Nat} (h : frac ≠ 0) : 1 < significand fw frac :=
  lt_add_of_pos_right 1 (by positivity)

theorem significand_lt_two {fw frac : Nat} (h : frac < 2 ^ fw) : significand fw frac < 2 := by
  have hlt : (frac : ℚ) / 2 ^ fw < 1 := (div_lt_one (by positivity)).mpr (by exact_mod_cast h)
  rw [significand]
  linarith

/-! ## Negation -/

@[simp] theorem sign64_neg64 (x : Word64) : sign64 (neg64 x) = ~~~sign64 x := by
  rw [sign64, neg64, BitVec.extractLsb'_xor]
  exact BitVec.xor_allOnes

@[simp] theorem expField64_neg64 (x : Word64) : expField64 (neg64 x) = expField64 x := by
  rw [expField64, neg64, BitVec.extractLsb'_xor]
  exact BitVec.xor_zero

@[simp] theorem fracField64_neg64 (x : Word64) : fracField64 (neg64 x) = fracField64 x := by
  rw [fracField64, neg64, BitVec.extractLsb'_xor]
  exact BitVec.xor_zero

theorem neg64_pack64 (s : BitVec 1) (e : BitVec 11) (f : BitVec 52) :
    neg64 (pack64 s e f) = pack64 (~~~s) e f := by
  rw [← pack64_of_fields (neg64 (pack64 s e f))]
  simp

theorem getLsbD_neg64 (x : Word64) (j : Nat) :
    (neg64 x).getLsbD j = (x.getLsbD j ^^ decide (j = 63)) := by
  have htop : 0x8000000000000000#64 = BitVec.twoPow 64 63 := rfl
  rw [neg64, htop, BitVec.getLsbD_xor, BitVec.getLsbD_twoPow]
  simp [eq_comm]

theorem value64_neg64 (x : Word64) : value64 (neg64 x) = (value64 x).map (fun v => -v) := by
  rw [value64, class64, exp64, frac64, sign64_neg64, expField64_neg64, fracField64_neg64]
  exact valueOf_not _ _ _ _ _ _

theorem getLsbD_63_eq_sign64 (x : Word64) : x.getLsbD 63 = (sign64 x).getLsbD 0 := by
  rw [sign64, BitVec.getLsbD_extractLsb']
  rfl

/-- A pattern is the positive one of its exponent and fraction, negated where its sign bit is 1. -/
theorem pack64_sign64_eq_ite (x : Word64) (e : BitVec 11) (f : BitVec 52) :
    pack64 (sign64 x) e f =
      if x.getLsbD 63 then neg64 (pack64 0#1 e f) else pack64 0#1 e f := by
  rw [neg64_pack64, getLsbD_63_eq_sign64]
  obtain hs | hs := BitVec.eq_zero_or_eq_one (sign64 x) <;> rw [hs] <;> rfl

/-- Settles O9: only the sign field of `neg64 x` differs from that of `x`, and the mantissa of R92
keeps the sign of `x`. -/
theorem negationFlipsOnlyTheSign : Obligations.NegationFlipsOnlyTheSign := by
  intro x
  refine ⟨?_, fun j hj => ?_, value64_neg64 x, fun k s hnormal => ?_⟩
  · rw [getLsbD_neg64, decide_eq_true rfl, Bool.xor_true]
  · rw [getLsbD_neg64, decide_eq_false hj.ne, Bool.xor_false]
  · obtain ⟨t, ht, hentered⟩ := exec_entered (.frexp64 x k) s
    rw [resultOf, frexp64Result_of_normal s.cfg hnormal] at hentered
    exact ⟨t, _, _, ht, hentered, pack64_sign64_eq_ite x _ _⟩

/-! ## The outputs of FREXP64 -/

theorem class64_ne_zero_of_isOod {x : Word64} (h : isOod (class64 x) = true) :
    class64 x ≠ .zero := by
  intro hzero
  rw [hzero] at h
  cases h

/-- R91: the sign of a zero is dropped. -/
theorem frexp64Result_of_isZero (c : Config) {x : Word64} (h : isZero64 x = true) :
    frexp64Result c x = { y := 0#64, e := 0#32, domErr := false, illOp := false } := by
  have hdom : domErr64 x = false := by rw [domErr64, (isZero64_iff_class64_zero x).mp h, isOod]
  rw [frexp64Result, hdom, drive_of_inDomain, frexp64Steps, if_pos h]

/-- R95: a `LITERAL` build gives an out-of-domain operand the data of a NORMAL one. -/
theorem frexp64Result_of_literal {c : Config} {x : Word64} (hliteral : c.oodData = .literal)
    (hood : isOod (class64 x) = true) :
    frexp64Result c x =
      { y := pack64 (sign64 x) 0x3FE#11 (fracField64 x),
        e := BitVec.ofInt 32 ((exp64 x : Int) - 1022), domErr := true, illOp := false } := by
  have hz : isZero64 x = false :=
    isZero64_eq_false_of_class64_ne_zero (class64_ne_zero_of_isOod hood)
  rw [frexp64Result, domErr64, hood, hliteral, drive_literal, frexp64Steps_of_not_isZero hz]

/-- Settles O10: a zero, a NORMAL and an out-of-domain operand in turn. -/
theorem frexp64Result_outputs : Obligations.Frexp64Result := by
  intro x k s
  obtain ⟨t, ht, hentered⟩ := exec_entered (.frexp64 x k) s
  rw [resultOf] at hentered
  refine ⟨fun hzero => ⟨t, ht, ?_⟩, fun hnormal => ⟨t, ht, ?_⟩,
    fun hood => ⟨t, _, ht, hentered, ?_, drive_illOp _ _ _ _, fun hliteral => ?_⟩⟩
  · rw [hentered, frexp64Result_of_isZero s.cfg ((isZero64_iff x).mpr hzero)]
  · rw [hentered, frexp64Result_of_normal s.cfg hnormal]
    rfl
  · exact (drive_domErr _ _ _ _).trans ((isOod_eq_true_iff _).mpr hood)
  · rw [frexp64Result_of_literal hliteral ((isOod_eq_true_iff _).mpr hood)]
    exact ⟨rfl, rfl⟩

/-! ## The mantissa of FREXP64 -/

theorem class64_mantissa (s : BitVec 1) (f : BitVec 52) :
    class64 (pack64 s 0x3FE#11 f) = .normal := by
  rw [class64_eq_normal_iff, exp64, expField64_pack64]
  decide

/-- R92: exponent field 1022 makes the mantissa half the significand. -/
theorem value64_mantissa (x : Word64) :
    value64 (pack64 (sign64 x) 0x3FE#11 (fracField64 x)) =
      some (signFactor (sign64 x) * (1 / 2 * significand 52 (frac64 x))) := by
  have hhalf : (2 : ℚ) ^ (((0x3FE#11).toNat : ℤ) - (1023 : ℕ)) = 1 / 2 := by norm_num
  rw [value64, class64_mantissa, valueOf_normal, sign64_pack64, exp64, expField64_pack64, hhalf,
    mul_assoc, frac64, fracField64_pack64, frac64]

theorem abs_mantissa (s : BitVec 1) (fw frac : Nat) :
    |signFactor s * (1 / 2 * significand fw frac)| = 1 / 2 * significand fw frac := by
  have hpos : 0 ≤ 1 / 2 * significand fw frac := by
    linarith [one_le_significand fw frac]
  rw [abs_mul, abs_signFactor, one_mul, abs_of_nonneg hpos]

/-- The magnitude of the mantissa lies in [0.5, 1.0). -/
theorem half_significand_mem (x : Word64) :
    1 / 2 ≤ 1 / 2 * significand 52 (frac64 x) ∧ 1 / 2 * significand 52 (frac64 x) < 1 := by
  constructor
  · linarith [one_le_significand 52 (frac64 x)]
  · linarith [significand_lt_two (frac64_lt x)]

/-- Settles O12: the mantissa is half the significand, with the sign of `x`. -/
theorem frexp64MantissaInHalfToOne : Obligations.Frexp64MantissaInHalfToOne := by
  intro x k s hnormal
  obtain ⟨t, ht, hentered⟩ := exec_entered (.frexp64 x k) s
  rw [resultOf, frexp64Result_of_normal s.cfg hnormal] at hentered
  refine ⟨t, _, _, ht, hentered, value64_mantissa x, abs_mantissa _ _ _, ?_⟩
  obtain ⟨hlow, hhigh⟩ := half_significand_mem x
  rw [abs_mantissa, getLsbD_63_eq_sign64, sign64_pack64, ← getLsbD_63_eq_sign64]
  exact ⟨hlow, hhigh, rfl⟩

/-- Settles O13: lowering the exponent field to 1022 divides by `2^(E - 1022)`. -/
theorem frexp64IsExact : Obligations.Frexp64IsExact := by
  intro x k s hnormal
  obtain ⟨t, ht, hentered⟩ := exec_entered (.frexp64 x k) s
  rw [resultOf, frexp64Result_of_normal s.cfg hnormal] at hentered
  have hvalue : value64 x =
      some (signFactor (sign64 x) * (2 : ℚ) ^ ((exp64 x : ℤ) - (1023 : ℕ)) *
        significand 52 (frac64 x)) := by
    rw [value64, hnormal, valueOf_normal]
  have hexponent : (2 : ℚ) ^ ((exp64 x : ℤ) - (1023 : ℕ)) =
      2 ^ ((exp64 x : ℤ) - 1022) * (1 / 2) := by
    rw [show (exp64 x : ℤ) - (1023 : ℕ) = (exp64 x : ℤ) - 1022 - 1 by omega,
      zpow_sub_one₀ two_ne_zero, one_div]
  refine ⟨t, _, _, _, ht, hentered, hvalue, value64_mantissa x, ?_⟩
  rw [toInt_ofInt_exp64_sub, hexponent]
  ring

/-- The mantissa of an infinity: 0.5 with its sign. -/
theorem mantissa_of_frac64_zero {x : Word64} (h : frac64 x = 0) :
    pack64 (sign64 x) 0x3FE#11 (fracField64 x) =
      if x.getLsbD 63 then 0xBFE0000000000000#64 else 0x3FE0000000000000#64 := by
  have hfield : fracField64 x = 0#52 := BitVec.eq_of_toNat_eq h
  rw [pack64_sign64_eq_ite, hfield]
  rfl

/-- Settles O14: the steps of R90 see a subnormal's exponent field as 0, that of INF and NAN as 2047,
and the mantissa is NORMAL in every class. -/
theorem frexp64LiteralOutcomes : Obligations.Frexp64LiteralOutcomes := by
  intro x k s hliteral hood
  obtain ⟨t, ht, hentered⟩ := exec_entered (.frexp64 x k) s
  rw [resultOf, frexp64Result_of_literal hliteral hood] at hentered
  obtain ⟨hlow, hhigh⟩ := half_significand_mem x
  refine ⟨t, _, ht, hentered, rfl, rfl, fun hsub => ⟨?_, _, value64_mantissa x, ?_⟩,
    fun hinf => ⟨?_, ?_⟩, fun hnan => ⟨?_, _, value64_mantissa x, ?_⟩⟩
  · obtain ⟨hexp, -⟩ := classOf_eq_subnormal.mp hsub
    rw [toInt_ofInt_exp64_sub, hexp]
    rfl
  · rw [abs_mantissa]
    exact ⟨hlow, hhigh⟩
  · obtain ⟨-, hexp, -⟩ := classOf_eq_inf.mp hinf
    rw [toInt_ofInt_exp64_sub, hexp]
    rfl
  · obtain ⟨-, -, hfrac⟩ := classOf_eq_inf.mp hinf
    exact mantissa_of_frac64_zero hfrac
  · obtain ⟨-, hexp, -⟩ := classOf_eq_nan.mp hnan
    rw [toInt_ofInt_exp64_sub, hexp]
    rfl
  · obtain ⟨-, -, hfrac⟩ := classOf_eq_nan.mp hnan
    rw [abs_mantissa]
    exact ⟨by linarith [one_lt_significand (fw := 52) hfrac], hhigh⟩

/-! ## The exponent field of Recompose -/

/-- The exponent field holds a sum in range exactly. -/
theorem toNat_ofInt_of_nonneg {w : Nat} {n : Int} (hlow : 0 ≤ n) (hhigh : n < 2 ^ w) :
    ((BitVec.ofInt w n).toNat : Int) = n := by
  rw [BitVec.toNat_ofInt, Int.toNat_of_nonneg (Int.emod_nonneg _ (by positivity))]
  exact Int.emod_eq_of_lt hlow (by exact_mod_cast hhigh)

/-- R117 for either format: under an exponent field `n` the one NaN is at the all-ones value. -/
theorem classOf_ofInt_eq_nan_iff {emax w frac : Nat} {n : Int} (hpos : 0 < emax) (hlow : 0 ≤ n)
    (hhigh : n < 2 ^ w) :
    classOf emax (BitVec.ofInt w n).toNat frac = .nan ↔ n = emax ∧ frac ≠ 0 := by
  rw [classOf_eq_nan_of_pos hpos, ← Int.natCast_inj, toNat_ofInt_of_nonneg hlow hhigh]

theorem ofInt_toNat {w : Nat} (field : BitVec w) : BitVec.ofInt w field.toNat = field := by
  rw [BitVec.ofInt_natCast, BitVec.ofNat_toNat, BitVec.setWidth_eq]

/-- The test `k = 0` of R110 and R120 decides nothing: there the sum is `E` itself, which is in range
and packs to `x`. -/
theorem ite_noOp_eq {α : Type} {zero : Bool} {k : Word32} {expo : Nat} {emax : Int}
    {x infinity packed : α} (hle : (expo : Int) ≤ emax)
    (hself : newExp expo k = expo → packed = x) :
    (if zero || k == 0#32 then x
      else if newExp expo k < 0 ∨ newExp expo k > emax then infinity else packed) =
    if zero then x
      else if newExp expo k < 0 ∨ newExp expo k > emax then infinity else packed := by
  by_cases hk : k = 0#32
  · have hsum : newExp expo k = expo := by rw [hk, newExp, BitVec.toInt_zero, add_zero]
    have hin : ¬ (newExp expo k < 0 ∨ newExp expo k > emax) := by omega
    rw [if_neg hin, hself hsum, ite_self, ite_self]
  · rw [beq_false_of_ne hk, Bool.or_false]

/-! ## The steps of LDEXP64 -/

/-- The steps of R110 without the test `k = 0`. -/
theorem ldexp64Steps_eq_ite (x : Word64) (k : Word32) :
    ldexp64Steps x k =
      if isZero64 x then x
      else if newExp (exp64 x) k < 0 ∨ newExp (exp64 x) k > 2047 then
        pack64 (sign64 x) 0x7FF#11 0#52
      else pack64 (sign64 x) (BitVec.ofInt 11 (newExp (exp64 x) k)) (fracField64 x) := by
  refine ite_noOp_eq (by exact_mod_cast Nat.le_of_lt_succ (exp64_lt x)) fun hself => ?_
  rw [hself, exp64, ofInt_toNat, pack64_of_fields]

theorem ldexp64Result_of_inDomain (c : Config) {x : Word64} (h : domErr64 x = false) (k : Word32) :
    ldexp64Result c x k =
      { y := ldexp64Steps x k, e := 0#32, domErr := false, illOp := false } := by
  rw [ldexp64Result, h, drive_of_inDomain]

/-! ## The round trip -/

/-- R128: the exponent of FREXP64 brings exponent field 1022 back to `E(x)`. -/
theorem newExp_mantissa (x : Word64) (s : BitVec 1) (f : BitVec 52) :
    newExp (exp64 (pack64 s 0x3FE#11 f)) (BitVec.ofInt 32 ((exp64 x : Int) - 1022)) = exp64 x := by
  have hfield : exp64 (pack64 s 0x3FE#11 f) = 1022 := by
    rw [exp64, expField64_pack64]
    rfl
  rw [newExp, toInt_ofInt_exp64_sub, hfield]
  omega

/-- R128 for the steps as written: `E(x)` is in range and goes back above the fraction of `x`. -/
theorem ldexp64Steps_mantissa (x : Word64) :
    ldexp64Steps (pack64 (sign64 x) 0x3FE#11 (fracField64 x))
      (BitVec.ofInt 32 ((exp64 x : Int) - 1022)) = x := by
  have hz : isZero64 (pack64 (sign64 x) 0x3FE#11 (fracField64 x)) = false :=
    isZero64_eq_false_of_class64_ne_zero ((class64_mantissa _ _).trans_ne nofun)
  have hin : ¬ ((exp64 x : Int) < 0 ∨ (exp64 x : Int) > 2047) := by
    have hexp := exp64_lt x
    omega
  rw [ldexp64Steps_eq_ite, hz, newExp_mantissa, if_neg nofun, if_neg hin, exp64, ofInt_toNat,
    sign64_pack64, fracField64_pack64, pack64_of_fields]

/-- Settles O30: the mantissa is in the domain, so both operations drive the data of their steps. -/
theorem roundTrip64 : Obligations.RoundTrip64 := by
  intro x k s s'
  obtain ⟨t, ht, hentered⟩ := exec_entered (.frexp64 x k) s
  rw [resultOf] at hentered
  obtain ⟨t', ht', hentered'⟩ :=
    exec_entered (.ldexp64 (frexp64Result s.cfg x).y (frexp64Result s.cfg x).e) s'
  rw [resultOf] at hentered'
  refine ⟨t, _, t', _, ht, hentered, ht', hentered', fun hnormal => ?_, fun hzero => ?_⟩
  · rw [frexp64Result_of_normal s.cfg hnormal,
      ldexp64Result_of_inDomain _ (domErr64_of_normal (class64_mantissa _ _))]
    exact ⟨ldexp64Steps_mantissa x, rfl⟩
  · rw [frexp64Result_of_isZero s.cfg ((isZero64_iff_class64_zero x).mpr hzero),
      ldexp64Result_of_inDomain _ rfl]
    exact ⟨rfl, rfl⟩

/-! ## NaN patterns of binary64 -/

theorem class64_frexp64Steps_ne_nan (x : Word64) : class64 (frexp64Steps x).1 ≠ .nan := by
  cases hz : isZero64 x with
  | true =>
    rw [frexp64Steps, if_pos hz]
    decide
  | false =>
    rw [frexp64Steps_of_not_isZero hz, class64_mantissa]
    decide

theorem class64_infinity (s : BitVec 1) : class64 (pack64 s 0x7FF#11 0#52) = .inf := by
  rw [class64, exp64, frac64, expField64_pack64, fracField64_pack64]
  rfl

/-- R83 for the steps of LDEXP64: a zero operand stays a zero, a sum out of range gives an infinity,
and any other result has the sum as its exponent field. -/
theorem class64_ldexp64Steps_eq_nan_iff (x : Word64) (k : Word32) :
    class64 (ldexp64Steps x k) = .nan ↔ (exp64 x : Int) + k.toInt = 2047 ∧ frac64 x ≠ 0 := by
  change _ ↔ newExp (exp64 x) k = 2047 ∧ _
  rw [ldexp64Steps_eq_ite]
  split_ifs with hz hout
  · have hzero : class64 x = .zero := (isZero64_iff_class64_zero x).mp hz
    obtain ⟨-, hfrac⟩ := classOf_eq_zero.mp hzero
    exact iff_of_false (hzero.trans_ne nofun) fun ⟨_, hne⟩ => hne hfrac
  · exact iff_of_false ((class64_infinity _).trans_ne nofun) (by omega)
  · rw [class64, exp64, frac64, expField64_pack64, fracField64_pack64]
    exact classOf_ofInt_eq_nan_iff (by decide) (by omega) (by omega)

/-! ## NaN patterns of binary32 -/

theorem class32_frexp32Steps_ne_nan (x : Word32) : class32 (low32 (frexp32Steps x).1) ≠ .nan := by
  have hmantissa : class32 (pack32 (sign32 x) 0x7E#8 (fracField32 x)) = .normal := by
    rw [class32_eq_normal_iff, exp32, expField32_pack32]
    decide
  cases hz : isZero32 x with
  | true =>
    rw [frexp32Steps_of_isZero hz]
    decide
  | false =>
    rw [frexp32Steps, if_neg (by simp [hz]), low32_onPort32, hmantissa]
    decide

/-- The steps of R120 without the test `k = 0`. -/
theorem ldexp32Steps_eq_ite (x : Word32) (k : Word32) :
    ldexp32Steps x k =
      if isZero32 x then x
      else if newExp (exp32 x) k < 0 ∨ newExp (exp32 x) k > 255 then
        pack32 (sign32 x) 0xFF#8 0#23
      else pack32 (sign32 x) (BitVec.ofInt 8 (newExp (exp32 x) k)) (fracField32 x) := by
  refine ite_noOp_eq (by exact_mod_cast Nat.le_of_lt_succ (exp32_lt x)) fun hself => ?_
  rw [hself, exp32, ofInt_toNat, pack32_of_fields]

theorem class32_infinity (s : BitVec 1) : class32 (pack32 s 0xFF#8 0#23) = .inf := by
  rw [class32, exp32, frac32, expField32_pack32, fracField32_pack32]
  rfl

/-- R83 for the steps of LDEXP32, by the same three cases as for LDEXP64. -/
theorem class32_ldexp32Steps_eq_nan_iff (x : Word32) (k : Word32) :
    class32 (ldexp32Steps x k) = .nan ↔ (exp32 x : Int) + k.toInt = 255 ∧ frac32 x ≠ 0 := by
  change _ ↔ newExp (exp32 x) k = 255 ∧ _
  rw [ldexp32Steps_eq_ite]
  split_ifs with hz hout
  · have hzero : class32 x = .zero := (isZero32_iff_class32_zero x).mp hz
    obtain ⟨-, hfrac⟩ := classOf_eq_zero.mp hzero
    exact iff_of_false (hzero.trans_ne nofun) fun ⟨_, hne⟩ => hne hfrac
  · exact iff_of_false ((class32_infinity _).trans_ne nofun) (by omega)
  · rw [class32, exp32, frac32, expField32_pack32, fracField32_pack32]
    exact classOf_ofInt_eq_nan_iff (by decide) (by omega) (by omega)

/-! ## The one way to a NaN pattern -/

/-- What holds of the data of the steps holds of the outputs for an in-domain operand. -/
theorem exec_outputs_of_steps {i : Instr} {s : State} {p : OodData} {ood : Bool}
    {steps free : Word64 × Word32} {P : Word64 → Prop}
    (hresult : resultOf s.cfg i = drive p ood steps free) (hood : ood = false) (h : P steps.1) :
    ∃ t r, exec i s = .next t ∧ t.entered = some ⟨true, r⟩ ∧ P r.y := by
  obtain ⟨t, ht, hentered⟩ := exec_entered i s
  rw [hresult, hood, drive_of_inDomain] at hentered
  exact ⟨t, _, ht, hentered, h⟩

/-- Settles O34: the outputs for an in-domain operand are the data of the steps. -/
theorem nanOnlyFromExponentOverflow : Obligations.NanOnlyFromExponentOverflow := by
  refine ⟨fun x k s hdom => ⟨?_, ?_⟩, fun x k s hb hdom => ⟨?_, ?_⟩⟩
  · exact exec_outputs_of_steps (P := fun y => class64 y ≠ .nan) rfl hdom
      (class64_frexp64Steps_ne_nan x)
  · exact exec_outputs_of_steps (P := fun y => class64 y = .nan ↔ _) rfl hdom
      (class64_ldexp64Steps_eq_nan_iff x k)
  · exact exec_outputs_of_steps (P := fun y => class32 (low32 y) ≠ .nan)
      (frexp32Result_of_hasBinary32 hb _) hdom (class32_frexp32Steps_ne_nan (low32 x))
  · refine exec_outputs_of_steps (P := fun y => class32 (low32 y) = .nan ↔ _)
      (ldexp32Result_of_hasBinary32 hb _ _) hdom ?_
    rw [low32_onPort32]
    exact class32_ldexp32Steps_eq_nan_iff (low32 x) k

end Sys2Proof.Machine
end

section
/-! The outputs of LDEXP64 case by case, and the value it gives a NORMAL operand
(40_binary_formats.md R71, R72, R78; 42_recompose.md R110 to R119, R126, R129). -/

namespace Sys2Proof.Machine

/-! ## What Recompose drives -/

theorem ldexp64Result_e (c : Config) (x : Word64) (k : Word32) :
    (ldexp64Result c x k).e = 0#32 := drive_e_of_eq rfl rfl

/-- The ILLEGAL result of a build without binary32 has `e = 0` as well. -/
theorem ldexp32Result_e (c : Config) (x k : Word32) : (ldexp32Result c x k).e = 0#32 := by
  cases hb : c.hasBinary32 with
  | true =>
    rw [ldexp32Result_of_hasBinary32 hb]
    exact drive_e_of_eq rfl rfl
  | false =>
    rw [ldexp32Result_of_not_hasBinary32 hb]
    rfl

/-- Settles O29: the steps, the free data and the ILLEGAL result all have `e = 0`. -/
theorem recomposeDrivesZeroExponent : Obligations.RecomposeDrivesZeroExponent := by
  intro x k s
  obtain ⟨t, ht, hentered⟩ := exec_entered (.ldexp64 x k) s
  obtain ⟨t', ht', hentered'⟩ := exec_entered (.ldexp32 x k) s
  exact ⟨⟨t, _, ht, hentered, ldexp64Result_e _ _ _⟩,
    ⟨t', _, ht', hentered', ldexp32Result_e _ _ _⟩⟩

/-- The steps of R110 in the bits of the operand. -/
theorem ldexp64Steps_eq_bits (x : Word64) (k : Word32) :
    ldexp64Steps x k =
      if x.extractLsb' 0 63 = 0#63 ∨ k.toInt = 0 then x
      else if ((x.extractLsb' 52 11).toNat : Int) + k.toInt < 0 ∨
          ((x.extractLsb' 52 11).toNat : Int) + k.toInt > 2047 then
        x.extractLsb' 63 1 ++ 0x7FF#11 ++ 0#52
      else x.extractLsb' 63 1 ++
        BitVec.ofInt 11 (((x.extractLsb' 52 11).toNat : Int) + k.toInt) ++
        x.extractLsb' 0 52 := by
  have noOp : (isZero64 x || k == 0#32) = true ↔ x.extractLsb' 0 63 = 0#63 ∨ k.toInt = 0 := by
    rw [Bool.or_eq_true, isZero64_iff, beq_iff_eq, eq_zero_iff_toInt_eq_zero]
  simp only [ldexp64Steps, noOp]
  rfl

/-- Settles O17: `drive` reports the domain, and for an in-domain operand or in a `LITERAL` build it
gives the word of the steps of R110. -/
theorem ldexp64Result_outputs : Obligations.Ldexp64Result := by
  intro x k s
  obtain ⟨t, ht, hentered⟩ := exec_entered (.ldexp64 x k) s
  have hdom : (ldexp64Result s.cfg x k).domErr = domErr64 x := drive_domErr _ _ _ _
  refine ⟨t, _, ht, hentered, drive_illOp _ _ _ _, ldexp64Result_e _ _ _, ?_, fun hsteps => ?_⟩
  · rw [resultOf, hdom]
    exact isOod_eq_true_iff _
  · rw [resultOf, hdom] at hsteps
    rw [resultOf, ldexp64Result, drive_eq_steps hsteps, ldexp64Steps_eq_bits]

/-! ## The steps, case by case -/

/-- R111: a zero operand, or `k = 0`. -/
theorem ldexp64Steps_of_noOp {x : Word64} {k : Word32} (h : isZero64 x = true ∨ k = 0#32) :
    ldexp64Steps x k = x :=
  if_pos (by rwa [Bool.or_eq_true, beq_iff_eq])

section NonZero

variable {x : Word64} {k : Word32} (hx : class64 x ≠ .zero)
include hx

/-- R115: a sum out of range gives signed infinity. -/
theorem ldexp64Steps_of_outOfRange
    (hout : (exp64 x : Int) + k.toInt < 0 ∨ (exp64 x : Int) + k.toInt > 2047) :
    ldexp64Steps x k = pack64 (sign64 x) 0x7FF#11 0#52 := by
  rw [ldexp64Steps_eq_ite, isZero64_eq_false_of_class64_ne_zero hx, if_neg nofun]
  exact if_pos hout

section InRange

variable (hlow : 0 ≤ (exp64 x : Int) + k.toInt) (hhigh : (exp64 x : Int) + k.toInt ≤ 2047)
include hlow hhigh

/-- R116: a sum in range becomes the exponent field. -/
theorem ldexp64Steps_of_inRange :
    ldexp64Steps x k =
      pack64 (sign64 x) (BitVec.ofInt 11 ((exp64 x : Int) + k.toInt)) (fracField64 x) := by
  rw [ldexp64Steps_eq_ite, isZero64_eq_false_of_class64_ne_zero hx, if_neg nofun]
  exact if_neg (not_or.mpr ⟨hlow.not_gt, hhigh.not_gt⟩)

theorem sign64_ldexp64Steps : sign64 (ldexp64Steps x k) = sign64 x := by
  rw [ldexp64Steps_of_inRange hx hlow hhigh, sign64_pack64]

/-- The exponent field holds the sum exactly. -/
theorem exp64_ldexp64Steps : (exp64 (ldexp64Steps x k) : Int) = exp64 x + k.toInt := by
  rw [ldexp64Steps_of_inRange hx hlow hhigh, exp64, expField64_pack64,
    toNat_ofInt_of_nonneg hlow (by omega)]

theorem fracField64_ldexp64Steps : fracField64 (ldexp64Steps x k) = fracField64 x := by
  rw [ldexp64Steps_of_inRange hx hlow hhigh, fracField64_pack64]

theorem frac64_ldexp64Steps : frac64 (ldexp64Steps x k) = frac64 x := by
  rw [frac64, fracField64_ldexp64Steps hx hlow hhigh, frac64]

end InRange

/-- R119: a sum between 1 and 2046 is the exponent of a NORMAL pattern. -/
theorem class64_ldexp64Steps_eq_normal (hlow : 1 ≤ (exp64 x : Int) + k.toInt)
    (hhigh : (exp64 x : Int) + k.toInt ≤ 2046) : class64 (ldexp64Steps x k) = .normal := by
  have hexp := exp64_ldexp64Steps (k := k) hx (by omega) (by omega)
  exact (class64_eq_normal_iff _).mpr (by omega)

/-- R117: the sum 2047. -/
theorem ldexp64Steps_of_sum_eq_2047 (hsum : (exp64 x : Int) + k.toInt = 2047) :
    ldexp64Steps x k = pack64 (sign64 x) 0x7FF#11 (fracField64 x) := by
  rw [ldexp64Steps_of_inRange hx (by omega) (by omega), hsum]
  rfl

/-- R118: the sum 0. -/
theorem ldexp64Steps_of_sum_eq_zero (hsum : (exp64 x : Int) + k.toInt = 0) :
    ldexp64Steps x k = pack64 (sign64 x) 0#11 (fracField64 x) := by
  rw [ldexp64Steps_of_inRange hx (by omega) (by omega), hsum]
  rfl

end NonZero

/-- Settles O18: for an in-domain operand the steps of R110 are driven, and they return `x`. -/
theorem ldexp64NoOpCases : Obligations.Ldexp64NoOpCases := fun x _ _ hdom hnoOp =>
  exec_outputs_of_steps (P := fun y => y = x) rfl hdom (ldexp64Steps_of_noOp hnoOp)

/-! ## A NORMAL operand -/

/-- A NORMAL operand is in the domain, so the data of the steps are driven. -/
theorem exec_ldexp64_of_normal {x : Word64} (h : class64 x = .normal) (k : Word32) (s : State) :
    ∃ t, exec (.ldexp64 x k) s = .next t ∧
      t.entered = some ⟨true, ⟨ldexp64Steps x k, 0#32, false, false⟩⟩ := by
  obtain ⟨t, ht, hentered⟩ := exec_entered (.ldexp64 x k) s
  rw [resultOf, ldexp64Result_of_inDomain s.cfg (domErr64_of_normal h)] at hentered
  exact ⟨t, ht, hentered⟩

/-- Settles O19: the infinity of R115 has the sign bit of `x`. -/
theorem ldexp64SaturatesOnBothSides : Obligations.Ldexp64SaturatesOnBothSides := by
  intro x k s hnormal hout
  obtain ⟨t, ht, hentered⟩ := exec_ldexp64_of_normal hnormal k s
  rw [ldexp64Steps_of_outOfRange (hnormal.trans_ne nofun) hout, pack64_sign64_eq_ite] at hentered
  refine ⟨t, _, ht, hentered, fun hpos => ?_, fun hneg => ?_⟩
  · rw [hpos]
    rfl
  · rw [hneg]
    rfl

/-- Settles O20: packing puts the sum above the fraction and below the sign of `x`. -/
theorem ldexp64ReplacesOnlyTheExponent : Obligations.Ldexp64ReplacesOnlyTheExponent := by
  intro x k s hnormal hlow hhigh
  obtain ⟨t, ht, hentered⟩ := exec_ldexp64_of_normal hnormal k s
  have hx : class64 x ≠ .zero := hnormal.trans_ne nofun
  refine ⟨t, _, ht, hentered, ldexp64Steps_of_inRange hx hlow hhigh,
    exp64_ldexp64Steps hx hlow hhigh, ?_, fracField64_ldexp64Steps hx hlow hhigh⟩
  rw [getLsbD_63_eq_sign64, sign64_ldexp64Steps hx hlow hhigh, getLsbD_63_eq_sign64]

/-- Settles O21: the all-ones exponent field above the fraction of `x` is INF or NAN by that
fraction, and the operand was in the domain. -/
theorem ldexp64ExponentLandsOn2047 : Obligations.Ldexp64ExponentLandsOn2047 := by
  intro x k s hnormal hsum
  obtain ⟨t, ht, hentered⟩ := exec_ldexp64_of_normal hnormal k s
  have hpattern := ldexp64Steps_of_sum_eq_2047 (hnormal.trans_ne nofun) hsum
  refine ⟨t, _, ht, hentered, rfl, hpattern, fun hfrac => ?_, fun hfrac => ?_⟩
  · have hfield : fracField64 x = 0#52 := BitVec.eq_of_toNat_eq hfrac
    rw [hpattern, hfield]
    exact ⟨rfl, class64_infinity _⟩
  · exact (class64_ldexp64Steps_eq_nan_iff x k).mpr ⟨hsum, hfrac⟩

/-! ## The value of the result -/

theorem signFactor_eq_neg_one_pow (s : BitVec 1) : signFactor s = (-1) ^ s.toNat := by
  obtain rfl | rfl := BitVec.eq_zero_or_eq_one s <;> simp [signFactor]

/-- R71 for a NORMAL pattern. -/
theorem value64_of_normal {x : Word64} (h : class64 x = .normal) :
    value64 x =
      some (signFactor (sign64 x) * (2 : ℚ) ^ ((exp64 x : ℤ) - 1023) *
        significand 52 (frac64 x)) := by
  rw [value64, h, valueOf_normal]
  rfl

/-- R72 under exponent field 0: with fraction 0 the pattern is a zero, and the formula gives 0. -/
theorem value64_pack64_zero (s : BitVec 1) (f : BitVec 52) :
    value64 (pack64 s 0#11 f) = some (signFactor s * (2 : ℚ) ^ (-1074 : ℤ) * f.toNat) := by
  have hfield : (0#11).toNat = 0 := rfl
  rw [value64, class64, exp64, frac64, expField64_pack64, fracField64_pack64, sign64_pack64, hfield]
  by_cases hf : f.toNat = 0
  · rw [classOf_eq_zero.mpr ⟨rfl, hf⟩, hf, Nat.cast_zero, mul_zero]
    rfl
  · rw [classOf_eq_subnormal.mpr ⟨rfl, hf⟩, valueOf_subnormal]
    rfl

/-- Scaling by `2^k` adds `k` to the exponent of the value. -/
theorem normalValue_mul_zpow (s : BitVec 1) (expo k : ℤ) (m : ℚ) :
    signFactor s * (2 : ℚ) ^ (expo - 1023) * m * 2 ^ k =
      signFactor s * 2 ^ (expo + k - 1023) * m := by
  rw [add_sub_right_comm, zpow_add₀ two_ne_zero]
  ring

/-- Settles O23: the result is NORMAL too, with the sign and fraction of `x` under the sum. -/
theorem ldexp64ScalesExactly : Obligations.Ldexp64ScalesExactly := by
  intro x k s hnormal hlow hhigh
  obtain ⟨t, ht, hentered⟩ := exec_ldexp64_of_normal hnormal k s
  have hx : class64 x ≠ .zero := hnormal.trans_ne nofun
  refine ⟨t, _, _, _, ht, hentered, value64_of_normal hnormal,
    value64_of_normal (class64_ldexp64Steps_eq_normal hx hlow hhigh), ?_⟩
  rw [sign64_ldexp64Steps hx (by omega) (by omega), exp64_ldexp64Steps hx (by omega) (by omega),
    frac64_ldexp64Steps hx (by omega) (by omega), normalValue_mul_zpow]

/-- Without the implicit 1 the magnitude is smaller: `2f < 2^52 + f`, as `f < 2^52`. -/
theorem subnormalValue_ne_normalValue {frac : Nat} (h : frac < 2 ^ 52) (s : BitVec 1) :
    signFactor s * (2 : ℚ) ^ (-1074 : ℤ) * frac ≠
      signFactor s * 2 ^ (-1023 : ℤ) * significand 52 frac := by
  have hscale : (2 : ℚ) ^ (-1074 : ℤ) = 2 ^ (-1023 : ℤ) * (2 / 2 ^ 52) := by
    rw [show (-1074 : ℤ) = -1023 + -51 from rfl, zpow_add₀ two_ne_zero]
    norm_num
  have hsign : signFactor s ≠ 0 := abs_pos.mp (abs_signFactor s ▸ one_pos)
  have hsmaller : 2 / 2 ^ 52 * (frac : ℚ) < significand 52 frac := by
    have hlt := significand_lt_two h
    rw [significand] at hlt ⊢
    linarith
  rw [hscale, ← mul_assoc, mul_assoc _ (2 / 2 ^ 52 : ℚ)]
  exact fun heq => hsmaller.ne
    (mul_left_cancel₀ (mul_ne_zero hsign (zpow_ne_zero _ two_ne_zero)) heq)

/-- Settles O22: the value of the result has the fraction where `val(x)·2^k` has the significand. -/
theorem ldexp64ExponentLandsOnZero : Obligations.Ldexp64ExponentLandsOnZero := by
  intro x k s hnormal hsum
  obtain ⟨t, ht, hentered⟩ := exec_ldexp64_of_normal hnormal k s
  rw [ldexp64Steps_of_sum_eq_zero (hnormal.trans_ne nofun) hsum] at hentered
  have hscaled := normalValue_mul_zpow (sign64 x) (exp64 x) k.toInt (significand 52 (frac64 x))
  rw [hsum, zero_sub] at hscaled
  refine ⟨t, _, _, _, ht, hentered, rfl, rfl, value64_of_normal hnormal, value64_pack64_zero _ _,
    ?_, ?_, ?_⟩
  · rw [signFactor_eq_neg_one_pow]
    rfl
  · rw [hscaled, signFactor_eq_neg_one_pow]
    rfl
  · rw [hscaled]
    exact subnormalValue_ne_normalValue (frac64_lt x) _

/-! ## An out-of-domain operand -/

theorem ldexp64Result_of_literal {c : Config} {x : Word64} (hliteral : c.oodData = .literal)
    (hood : isOod (class64 x) = true) (k : Word32) :
    ldexp64Result c x k =
      { y := ldexp64Steps x k, e := 0#32, domErr := true, illOp := false } := by
  rw [ldexp64Result, domErr64, hood, hliteral, drive_literal]

theorem exp64_of_inf_or_nan {x : Word64} (h : class64 x = .inf ∨ class64 x = .nan) :
    exp64 x = 2047 := by
  obtain hinf | hnan := h
  · obtain ⟨-, hexp, -⟩ := classOf_eq_inf.mp hinf
    exact hexp
  · obtain ⟨-, hexp, -⟩ := classOf_eq_nan.mp hnan
    exact hexp

/-- Settles O25: the steps see a subnormal's exponent field as 0 and that of INF and NAN as 2047, so
`k` alone is the new exponent, or any `k > 0` is out of range. -/
theorem ldexp64LiteralOutcomes : Obligations.Ldexp64LiteralOutcomes := by
  intro x k s hliteral hood
  obtain ⟨t, ht, hentered⟩ := exec_entered (.ldexp64 x k) s
  rw [resultOf, ldexp64Result_of_literal hliteral hood] at hentered
  have hx : class64 x ≠ .zero := class64_ne_zero_of_isOod hood
  refine ⟨t, _, ht, hentered, rfl, rfl, rfl, fun hk => ?_,
    fun _ hout => ldexp64Steps_of_outOfRange hx hout,
    fun _ hlow hhigh => ldexp64Steps_of_inRange hx hlow hhigh,
    fun hsub hlow hhigh => ?_, fun hsub hk => ?_, fun hinf hk => ?_⟩
  · exact ldexp64Steps_of_noOp (.inr ((eq_zero_iff_toInt_eq_zero k).mpr hk))
  · obtain ⟨hexp, -⟩ := classOf_eq_subnormal.mp hsub
    exact ⟨class64_ldexp64Steps_eq_normal hx (by omega) (by omega),
      frac64_ldexp64Steps hx (by omega) (by omega)⟩
  · obtain ⟨hexp, hfrac⟩ := classOf_eq_subnormal.mp hsub
    exact (class64_ldexp64Steps_eq_nan_iff x k).mpr ⟨by omega, hfrac⟩
  · have hexp := exp64_of_inf_or_nan hinf
    exact ldexp64Steps_of_outOfRange hx (.inr (by omega))

end Sys2Proof.Machine
end

section
/-! No operation faults and no cycle is without a next state (60_exceptions.md R140). -/

namespace Sys2Proof.Machine

/-- A reset edge clears the stages, and any other cycle is one of the clock. -/
theorem step_eq_next (s : State) : ∃ t, step s = .next t := by
  cases hresets : s.resets with
  | true => exact ⟨_, step_of_resets hresets⟩
  | false => exact ⟨_, step_of_not_resets hresets⟩

/-- Settles O46: an operation's outputs enter the next state, and each kind of cycle has one. -/
theorem nothingEverStops : Obligations.NothingEverStops := by
  refine ⟨fun i s => ?_, step_eq_next⟩
  obtain ⟨t, ht, hentered⟩ := exec_entered i s
  exact ⟨t, resultOf s.cfg i, ht, hentered⟩

end Sys2Proof.Machine
end

section
/-! The pipeline over several cycles: a reset edge silences the ports for `P_LATENCY` cycles, and
what enters is shown `P_LATENCY` cycles later (70_reset_and_hazards.md R171, R175, R177, R179). -/

namespace Sys2Proof.Machine

/-! ## Steps and runs -/

theorem run_succ_of_step {s t : State} (h : step s = .next t) (n : Nat) :
    Host.Core.run Sys2Proof.core (n + 1) s = Host.Core.run Sys2Proof.core n t := by
  have hcore : Sys2Proof.core.step s = .next t := h
  simp only [Host.Core.run, hcore]

/-- A step is a reset edge or one cycle of the clock. -/
theorem step_eq_resetEdge_or_clock {s t : State} (h : step s = .next t) :
    (s.resets = true ∧ t = s.nextInputs.resetEdge) ∨
    (s.resets = false ∧ t = s.nextInputs.clock s.entering) := by
  cases hresets : s.resets with
  | true =>
    rw [step_of_resets hresets] at h
    exact .inl ⟨rfl, (Host.Outcome.next.inj h).symm⟩
  | false =>
    rw [step_of_not_resets hresets] at h
    exact .inr ⟨rfl, (Host.Outcome.next.inj h).symm⟩

/-- Only a build with a pipeline has a reset edge, and `rst` is what brings it. -/
theorem State.resets_eq_true_iff (s : State) :
    s.resets = true ↔ 0 < s.cfg.latency ∧ s.inp.rst = true := by
  simp [State.resets, Nat.pos_iff_ne_zero]

/-! ## What the ports show in a build with a pipeline -/

/-- What enters in a cycle is not what a pipeline shows in it. -/
theorem State.lastStage_eq_of_pos {s : State} (hpos : 0 < s.cfg.latency)
    (entering entering' : Slot) : s.lastStage entering = s.lastStage entering' := by
  obtain ⟨m, hm⟩ := Nat.exists_eq_succ_of_ne_zero hpos.ne'
  simp [State.lastStage, hm]

theorem State.lastStage_of_getElem? {s : State} {j : Nat} {slot : Slot}
    (hlast : s.cfg.latency = j + 1) (hslot : s.pipe[j]? = some slot) (entering : Slot) :
    s.lastStage entering = slot := by
  simp [State.lastStage, hlast, hslot]

/-- With a pipeline the ports show stage `P_LATENCY` as it stood before the step, whether or not the
step is a reset edge. -/
theorem step_out {s t : State} (hstep : step s = .next t) (hpos : 0 < s.cfg.latency) :
    t.out = shown (s.lastStage s.bubble) s.draws := by
  obtain ⟨-, rfl⟩ | ⟨-, rfl⟩ := step_eq_resetEdge_or_clock hstep
  · rw [State.resetEdge_out, State.nextInputs_lastStage, State.nextInputs_draws,
      State.lastStage_eq_of_pos hpos]
  · rw [State.clock_out, State.nextInputs_lastStage, State.nextInputs_draws,
      State.lastStage_eq_of_pos hpos]

/-! ## A reset edge -/

/-- Settles O43: a reset edge accepts nothing, so only `rst` of the input ports is read; it clears
the stages, and the ports show the last one as it stood before. -/
theorem resetEdgeClearsThePipeline : Obligations.ResetEdgeClearsThePipeline := by
  intro s v op x k hlen hpos hrst
  have hresets : s.resets = true := s.resets_eq_true_iff.mpr ⟨hpos, hrst⟩
  have hresets' : State.resets { s with inp := ⟨true, v, op, x, k⟩ } = true :=
    (State.resets_eq_true_iff _).mpr ⟨hpos, rfl⟩
  have hsame : step { s with inp := ⟨true, v, op, x, k⟩ } = step s :=
    step_withInp (hresets'.trans hresets.symm) (by simp [State.accepted, hresets, hresets'])
  have hstep := step_of_resets hresets
  obtain ⟨last, hlast, hshown⟩ := State.lastStage_of_pos hlen hpos s.bubble
  have hout : s.nextInputs.resetEdge.out = shown last s.draws := by rw [step_out hstep hpos, hshown]
  refine ⟨_, last, hstep, hsame.trans hstep, ?_, fun slot hslot => clearedStages_valid hslot,
    hlast, ?_, fun hvalid => ?_⟩
  · rw [State.resetEdge_pipe, clearedStages_length, State.nextInputs_cfg]
  · rw [hout, shown_valid]
  · rw [hout, shown_of_valid hvalid]

/-! ## The cycles after a reset edge -/

/-- No stage after the first `m` is valid.  `m` cycles after a reset edge this holds: at most `m`
operations have entered since. -/
def State.SilentFrom (s : State) (m : Nat) : Prop :=
  ∀ (j : Nat) (slot : Slot), m ≤ j → s.pipe[j]? = some slot → slot.valid = false

theorem State.resetEdge_silentFrom (s : State) (m : Nat) : s.resetEdge.SilentFrom m :=
  fun _ _ _ hslot => clearedStages_valid (List.mem_of_getElem? hslot)

/-- A cycle moves each stage up by one place, so one more stage may be valid. -/
theorem State.clock_silentFrom {s : State} {m : Nat} (h : s.SilentFrom m) (entering : Slot) :
    (s.clock entering).SilentFrom (m + 1) := by
  intro j slot hj hslot
  obtain ⟨i, rfl⟩ : ∃ i, j = i + 1 := Nat.exists_eq_succ_of_ne_zero (by omega)
  have hlt : i + 1 < s.cfg.latency := by
    obtain ⟨hi, -⟩ := List.getElem?_eq_some_iff.mp hslot
    rw [State.clock_pipe, List.length_take] at hi
    omega
  rw [State.clock_pipe_succ hlt] at hslot
  exact h i slot (by omega) hslot

theorem step_silentFrom {s t : State} {m : Nat} (h : s.SilentFrom m) (hstep : step s = .next t) :
    t.SilentFrom (m + 1) := by
  have hinputs : s.nextInputs.SilentFrom m := by rwa [State.SilentFrom, State.nextInputs_pipe]
  obtain ⟨-, rfl⟩ | ⟨-, rfl⟩ := step_eq_resetEdge_or_clock hstep
  · exact State.resetEdge_silentFrom _ _
  · exact State.clock_silentFrom hinputs _

/-- While the last stage is silent, so are the ports. -/
theorem step_out_valid_of_silentFrom {s t : State} {m : Nat} (h : s.SilentFrom m)
    (hm : m < s.cfg.latency) (hstep : step s = .next t) : t.out.valid = false := by
  obtain ⟨j, hlast⟩ : ∃ j, s.cfg.latency = j + 1 := Nat.exists_eq_succ_of_ne_zero (by omega)
  rw [step_out hstep (by omega), shown_valid]
  cases hslot : s.pipe[j]? with
  | none => simp [State.lastStage, hlast, hslot]
  | some slot =>
    rw [State.lastStage_of_getElem? hlast hslot]
    exact h j slot (by omega) hslot

theorem run_out_valid_of_silentFrom (n : Nat) {s : State} {m : Nat} (h : s.SilentFrom m)
    (hmn : m + n < s.cfg.latency) :
    ∃ t : State, Host.Core.run Sys2Proof.core (n + 1) s = .next t ∧ t.out.valid = false := by
  induction n generalizing s m with
  | zero =>
    obtain ⟨t, hstep⟩ := step_eq_next s
    exact ⟨t, run_succ_of_step hstep 0, step_out_valid_of_silentFrom h hmn hstep⟩
  | succ n ih =>
    obtain ⟨t, hstep⟩ := step_eq_next s
    rw [run_succ_of_step hstep]
    have hcfg : t.cfg = s.cfg := parametersNeverChange s t hstep
    exact ih (step_silentFrom h hstep) (by rw [hcfg]; omega)

/-- Settles O44: a reset edge leaves every stage silent, and an operation presented after it needs
`P_LATENCY` cycles to come to the ports. -/
theorem noResultForLatencyCyclesAfterReset : Obligations.NoResultForLatencyCyclesAfterReset := by
  intro s n hrst hn hnL
  obtain ⟨m, rfl⟩ : ∃ m, n = m + 1 := Nat.exists_eq_succ_of_ne_zero (by omega)
  have hresets : s.resets = true := s.resets_eq_true_iff.mpr ⟨by omega, hrst⟩
  rw [run_succ_of_step (step_of_resets hresets)]
  refine run_out_valid_of_silentFrom m (State.resetEdge_silentFrom _ 0) ?_
  rw [State.resetEdge_cfg, State.nextInputs_cfg]
  omega

/-! ## The cycles without a reset edge -/

/-- The host does not assert `rst` in the next `n` cycles; those past its list are idle. -/
def State.NoReset (s : State) (n : Nat) : Prop :=
  ∀ p ∈ (s.inp :: s.queue).take n, p.rst = false

theorem State.NoReset.rst {s : State} {n : Nat} (h : s.NoReset (n + 1)) : s.inp.rst = false :=
  h s.inp (by simp)

theorem State.NoReset.nextInputs {s : State} {n : Nat} (h : s.NoReset (n + 1)) :
    s.nextInputs.NoReset n := by
  intro p hp
  cases hqueue : s.queue with
  | nil =>
    obtain ⟨hinp, hrest⟩ := s.nextInputs_of_queue_nil hqueue
    rw [hinp, hrest] at hp
    obtain rfl := List.mem_singleton.mp (List.mem_of_mem_take hp)
    rfl
  | cons p' q =>
    obtain ⟨hinp, hrest⟩ := s.nextInputs_of_queue_cons hqueue
    rw [hinp, hrest, ← hqueue] at hp
    exact h p (by rw [List.take_succ_cons]; exact List.mem_cons_of_mem _ hp)

/-- A slot `d` stages before the last one is shown by the `d`-th step after this one: each cycle
between moves it up one place.  That last step may itself end in a reset edge. -/
theorem run_shows_stage (d : Nat) {s : State} {j : Nat} {slot : Slot}
    (hlast : s.cfg.latency = j + d + 1) (hslot : s.pipe[j]? = some slot) (hnoReset : s.NoReset d) :
    ∃ (t : State) (n : Nat), Host.Core.run Sys2Proof.core (d + 1) s = .next t ∧
      t.out = shown slot n := by
  induction d generalizing s j with
  | zero =>
    obtain ⟨t, hstep⟩ := step_eq_next s
    refine ⟨t, s.draws, run_succ_of_step hstep 0, ?_⟩
    rw [step_out hstep (by omega), State.lastStage_of_getElem? hlast hslot]
  | succ d ih =>
    have hresets : s.resets = false := s.resets_eq_false_iff.mpr (.inr hnoReset.rst)
    rw [run_succ_of_step (step_of_not_resets hresets)]
    have hlast' : s.nextInputs.cfg.latency = j + 1 + d + 1 := by
      rw [State.nextInputs_cfg]
      omega
    refine ih hlast' ?_ hnoReset.nextInputs
    rw [State.clock_pipe_succ (by omega), State.nextInputs_pipe, hslot]

/-- What enters in a cycle is shown `P_LATENCY` cycles later. -/
theorem run_shows_entering {s : State} (hnoReset : s.NoReset s.cfg.latency) :
    ∃ (t : State) (n : Nat), Host.Core.run Sys2Proof.core (s.cfg.latency + 1) s = .next t ∧
      t.out = shown s.entering n := by
  cases hL : s.cfg.latency with
  | zero =>
    have hstep := step_of_not_resets (s.resets_eq_false_iff.mpr (.inl hL))
    refine ⟨_, s.draws, run_succ_of_step hstep 0, ?_⟩
    rw [State.clock_out, State.nextInputs_lastStage, State.lastStage_of_latency_zero hL,
      State.nextInputs_draws]
  | succ d =>
    rw [hL] at hnoReset
    have hL' : s.nextInputs.cfg.latency = d + 1 := by rw [State.nextInputs_cfg, hL]
    rw [run_succ_of_step (step_of_not_resets (s.resets_eq_false_iff.mpr (.inr hnoReset.rst)))]
    exact run_shows_stage d (j := 0) (by rw [State.clock_cfg, hL']; omega)
      (State.clock_pipe_zero (by omega) _) hnoReset.nextInputs

/-- Settles O45: the slot that enters now is the one shown `P_LATENCY` cycles later, and it holds
the outputs of the operation on the ports. -/
theorem resultShownAfterLatencyCycles : Obligations.ResultShownAfterLatencyCycles := by
  intro s hnoReset
  obtain ⟨t, n, hrun, hout⟩ := run_shows_entering hnoReset
  refine ⟨t, hrun, by rw [hout, shown_valid, State.entering_valid], fun hvalid => ?_⟩
  rw [hout, shown_of_valid (s.entering_valid.trans hvalid), State.entering, if_pos hvalid]
  exact exec_entered _ s

end Sys2Proof.Machine
end

section
/-! FREXP32 and LDEXP32 of a NORMAL operand: exact scaling, the edges of the exponent range and the
round trip; and the sample words of the spec's programs (30_encoding.md R51; 40_binary_formats.md R80,
R81; 41_decompose.md R100, R102; 42_recompose.md R120 to R123; 95_test_vectors.md section 3). -/

namespace Sys2Proof.Machine

/-! ## Sample words -/

theorem decode_of_encode_eq {i : Instr} {w : Opw} (h : encode i = w) : decode w = i :=
  h ▸ decode_encode i

/-- Settles O4: each word is the encoding of the operation written beside it. -/
theorem sampleWordsDecode : Obligations.SampleWordsDecode :=
  ⟨decode_of_encode_eq (by decide), decode_of_encode_eq (by decide),
    decode_of_encode_eq (by decide), decode_of_encode_eq (by decide),
    decode_of_encode_eq (by decide)⟩

/-! ## The value of a NORMAL binary32 pattern -/

/-- The number of R80, by the fields of the pattern. -/
def normalValue32 (x : Word32) : ℚ :=
  signFactor (sign32 x) * (2 : ℚ) ^ ((exp32 x : ℤ) - 127) * significand 23 (frac32 x)

theorem value32_of_normal {x : Word32} (h : class32 x = .normal) :
    value32 x = some (normalValue32 x) := by
  rw [value32, h, valueOf_normal]
  rfl

/-- Under the same sign and fraction, adding `k` to the exponent field multiplies by `2^k`. -/
theorem normalValue32_eq_mul_zpow {x y : Word32} {k : ℤ} (hsign : sign32 y = sign32 x)
    (hfrac : frac32 y = frac32 x) (hexp : (exp32 y : ℤ) = exp32 x + k) :
    normalValue32 y = normalValue32 x * (2 : ℚ) ^ k := by
  rw [normalValue32, normalValue32, hsign, hfrac, hexp, add_sub_right_comm, zpow_add₀ two_ne_zero]
  ring

/-- Exponent field 126 places the magnitude in [0.5, 1.0). -/
theorem abs_normalValue32_mem {x : Word32} (hexp : exp32 x = 126) :
    1 / 2 ≤ |normalValue32 x| ∧ |normalValue32 x| < 1 := by
  have hhalf : (2 : ℚ) ^ (((126 : ℕ) : ℤ) - 127) = 1 / 2 := by norm_num
  rw [normalValue32, hexp, hhalf, mul_assoc, abs_mantissa]
  constructor
  · linarith [one_le_significand 23 (frac32 x)]
  · linarith [significand_lt_two (frac32_lt x)]

/-! ## FREXP32 of a NORMAL operand -/

theorem domErr32_of_normal {x : Word32} (h : class32 x = .normal) : domErr32 x = false := by
  rw [domErr32, h, isOod]

/-- The mantissa word of R102: exponent field 126 under the sign and above the fraction of `x`. -/
def mantissa32 (x : Word32) : Word32 := pack32 (sign32 x) 0x7E#8 (fracField32 x)

@[simp] theorem sign32_mantissa32 (x : Word32) : sign32 (mantissa32 x) = sign32 x :=
  sign32_pack32 _ _ _

@[simp] theorem fracField32_mantissa32 (x : Word32) :
    fracField32 (mantissa32 x) = fracField32 x :=
  fracField32_pack32 _ _ _

@[simp] theorem frac32_mantissa32 (x : Word32) : frac32 (mantissa32 x) = frac32 x := by
  rw [frac32, fracField32_mantissa32, frac32]

@[simp] theorem exp32_mantissa32 (x : Word32) : exp32 (mantissa32 x) = 126 := by
  rw [exp32, mantissa32, expField32_pack32]
  rfl

theorem class32_mantissa32 (x : Word32) : class32 (mantissa32 x) = .normal := by
  rw [class32_eq_normal_iff, exp32_mantissa32]
  decide

/-- The exponent `E32(x) - 126` of R102 fits in 32 bits, so it does not wrap. -/
theorem toInt_ofInt_exp32_sub (x : Word32) :
    (BitVec.ofInt 32 ((exp32 x : Int) - 126)).toInt = exp32 x - 126 := by
  have hexp := exp32_lt x
  exact BitVec.toInt_ofInt_eq_self (by decide) (by omega) (by omega)

/-- R102: a NORMAL operand is in the domain, and its outputs are the mantissa word and
`E32(x) - 126`. -/
theorem exec_frexp32_of_normal {x : Word64} {s : State} (hb : s.cfg.hasBinary32 = true)
    (h : class32 (low32 x) = .normal) (k : Word32) :
    ∃ t, exec (.frexp32 x k) s = .next t ∧
      t.entered = some ⟨true, ⟨onPort32 (mantissa32 (low32 x)),
        BitVec.ofInt 32 ((exp32 (low32 x) : Int) - 126), false, false⟩⟩ := by
  obtain ⟨t, ht, hentered⟩ := exec_entered (.frexp32 x k) s
  have hz : isZero32 (low32 x) = false :=
    isZero32_eq_false_of_class32_ne_zero (h.trans_ne nofun)
  rw [resultOf, frexp32Result_of_hasBinary32 hb, domErr32_of_normal h, drive_of_inDomain,
    frexp32Steps_low32 hz, ← sign32_low32, ← fracField32_low32, ← exp32_low32] at hentered
  exact ⟨t, ht, hentered⟩

/-- Settles O16: `x` is its mantissa word with `E32(x) - 126` added to the exponent field. -/
theorem frexp32IsExactInRange : Obligations.Frexp32IsExactInRange := by
  intro x k s hb hnormal
  obtain ⟨t, ht, hentered⟩ := exec_frexp32_of_normal hb hnormal k
  obtain ⟨hlow, hhigh⟩ := abs_normalValue32_mem (exp32_mantissa32 (low32 x))
  have hmantissa : value32 (low32 (onPort32 (mantissa32 (low32 x)))) =
      some (normalValue32 (mantissa32 (low32 x))) := by
    rw [low32_onPort32, value32_of_normal (class32_mantissa32 _)]
  refine ⟨t, _, normalValue32 (low32 x), _, ht, hentered, value32_of_normal hnormal, hmantissa,
    hlow, hhigh, ?_⟩
  obtain ⟨hmin, hmax⟩ := (class32_eq_normal_iff (low32 x)).mp hnormal
  rw [toInt_ofInt_exp32_sub]
  refine ⟨by omega, by omega, normalValue32_eq_mul_zpow (sign32_mantissa32 _).symm
    (frac32_mantissa32 _).symm ?_⟩
  rw [exp32_mantissa32]
  omega

/-! ## The steps of LDEXP32, case by case -/

section NonZero

variable {x k : Word32} (hx : class32 x ≠ .zero)
include hx

/-- R120: a sum out of range gives signed infinity. -/
theorem ldexp32Steps_of_outOfRange
    (hout : (exp32 x : Int) + k.toInt < 0 ∨ (exp32 x : Int) + k.toInt > 255) :
    ldexp32Steps x k = pack32 (sign32 x) 0xFF#8 0#23 := by
  rw [ldexp32Steps_eq_ite, isZero32_eq_false_of_class32_ne_zero hx, if_neg nofun]
  exact if_pos hout

section InRange

variable (hlow : 0 ≤ (exp32 x : Int) + k.toInt) (hhigh : (exp32 x : Int) + k.toInt ≤ 255)
include hlow hhigh

/-- R120: a sum in range becomes the exponent field. -/
theorem ldexp32Steps_of_inRange :
    ldexp32Steps x k =
      pack32 (sign32 x) (BitVec.ofInt 8 ((exp32 x : Int) + k.toInt)) (fracField32 x) := by
  rw [ldexp32Steps_eq_ite, isZero32_eq_false_of_class32_ne_zero hx, if_neg nofun]
  exact if_neg (not_or.mpr ⟨hlow.not_gt, hhigh.not_gt⟩)

theorem sign32_ldexp32Steps : sign32 (ldexp32Steps x k) = sign32 x := by
  rw [ldexp32Steps_of_inRange hx hlow hhigh, sign32_pack32]

/-- The exponent field holds the sum exactly. -/
theorem exp32_ldexp32Steps : (exp32 (ldexp32Steps x k) : Int) = exp32 x + k.toInt := by
  rw [ldexp32Steps_of_inRange hx hlow hhigh, exp32, expField32_pack32,
    toNat_ofInt_of_nonneg hlow (by omega)]

theorem frac32_ldexp32Steps : frac32 (ldexp32Steps x k) = frac32 x := by
  rw [ldexp32Steps_of_inRange hx hlow hhigh, frac32, fracField32_pack32, frac32]

end InRange

/-- The class of the result is read from the sum and the fraction of `x`. -/
theorem class32_ldexp32Steps {n : Nat} (hsum : (exp32 x : Int) + k.toInt = n) (hn : n ≤ 255) :
    class32 (ldexp32Steps x k) = classOf 255 n (frac32 x) := by
  have hlow : 0 ≤ (exp32 x : Int) + k.toInt := by omega
  have hhigh : (exp32 x : Int) + k.toInt ≤ 255 := by omega
  have hexp : exp32 (ldexp32Steps x k) = n := by
    have hfield := exp32_ldexp32Steps hx hlow hhigh
    omega
  rw [class32, hexp, frac32_ldexp32Steps hx hlow hhigh]

end NonZero

/-! ## LDEXP32 of a NORMAL operand -/

/-- A NORMAL operand is in the domain, so the word of the steps is driven. -/
theorem exec_ldexp32_of_normal {x : Word64} {s : State} (hb : s.cfg.hasBinary32 = true)
    (h : class32 (low32 x) = .normal) (k : Word32) :
    ∃ t, exec (.ldexp32 x k) s = .next t ∧
      t.entered = some ⟨true, ⟨onPort32 (ldexp32Steps (low32 x) k), 0#32, false, false⟩⟩ := by
  obtain ⟨t, ht, hentered⟩ := exec_entered (.ldexp32 x k) s
  rw [resultOf, ldexp32Result_of_hasBinary32 hb, domErr32_of_normal h,
    drive_of_inDomain] at hentered
  exact ⟨t, ht, hentered⟩

/-- The two infinities on the port, by the sign bit of the operand. -/
theorem onPort32_infinity (x : Word64) :
    onPort32 (pack32 (sign32 (low32 x)) 0xFF#8 0#23) =
      if x.getLsbD 31 then 0xFF800000#64 else 0x7F800000#64 := by
  have hbit : x.getLsbD 31 = (sign32 (low32 x)).getLsbD 0 := by
    rw [sign32_low32, BitVec.getLsbD_extractLsb']
    rfl
  rw [hbit]
  obtain hs | hs := BitVec.eq_zero_or_eq_one (sign32 (low32 x)) <;> rw [hs] <;> rfl

/-- Settles O27: out of range the infinity has the sign bit of the operand; at 255 and at 0 the
fraction decides the class. -/
theorem ldexp32Edges : Obligations.Ldexp32Edges := by
  intro x k s hb hnormal
  obtain ⟨t, ht, hentered⟩ := exec_ldexp32_of_normal hb hnormal k
  have hx : class32 (low32 x) ≠ .zero := hnormal.trans_ne nofun
  refine ⟨t, _, ht, hentered, rfl, fun hout => ?_, fun hsum => ?_, fun hsum => ?_⟩
  · rw [ldexp32Steps_of_outOfRange hx hout, onPort32_infinity]
  · rw [low32_onPort32, class32_ldexp32Steps (n := 255) hx hsum (by decide)]
    rfl
  · rw [low32_onPort32, class32_ldexp32Steps (n := 0) hx hsum (by decide)]
    rfl

/-- Settles O28: the result is NORMAL too, with the sign and fraction of the operand under the
sum. -/
theorem ldexp32ScalesExactly : Obligations.Ldexp32ScalesExactly := by
  intro x k s hb hnormal hlow hhigh
  obtain ⟨t, ht, hentered⟩ := exec_ldexp32_of_normal hb hnormal k
  have hx : class32 (low32 x) ≠ .zero := hnormal.trans_ne nofun
  have hexp := exp32_ldexp32Steps (k := k) hx (by omega) (by omega)
  have hresult : class32 (ldexp32Steps (low32 x) k) = .normal :=
    (class32_eq_normal_iff _).mpr (by omega)
  refine ⟨t, _, _, normalValue32 (ldexp32Steps (low32 x) k), ht, hentered,
    value32_of_normal hnormal, ?_, normalValue32_eq_mul_zpow ?_ ?_ hexp⟩
  · rw [low32_onPort32, value32_of_normal hresult]
  · exact sign32_ldexp32Steps hx (by omega) (by omega)
  · exact frac32_ldexp32Steps hx (by omega) (by omega)

/-! ## The round trip -/

/-- R122 for the steps: the sum `126 + (E32(x) - 126)` is in range, and `E32(x)` goes back above the
fraction of `x`. -/
theorem ldexp32Steps_mantissa32 (x : Word32) :
    ldexp32Steps (mantissa32 x) (BitVec.ofInt 32 ((exp32 x : Int) - 126)) = x := by
  have hx : class32 (mantissa32 x) ≠ .zero := (class32_mantissa32 x).trans_ne nofun
  have hsum : (exp32 (mantissa32 x) : Int) +
      (BitVec.ofInt 32 ((exp32 x : Int) - 126)).toInt = exp32 x := by
    rw [exp32_mantissa32, toInt_ofInt_exp32_sub]
    omega
  have hexp := exp32_lt x
  rw [ldexp32Steps_of_inRange hx (by omega) (by omega), hsum, exp32, ofInt_toNat,
    sign32_mantissa32, fracField32_mantissa32, pack32_of_fields]

/-- Settles O31: the mantissa word is NORMAL, so LDEXP32 drives its steps on it. -/
theorem roundTrip32 : Obligations.RoundTrip32 := by
  intro x k s s' hb hb' hnormal
  obtain ⟨t, ht, hentered⟩ := exec_frexp32_of_normal hb hnormal k
  have hmantissa : class32 (low32 (onPort32 (mantissa32 (low32 x)))) = .normal := by
    rw [low32_onPort32, class32_mantissa32]
  obtain ⟨t', ht', hentered'⟩ :=
    exec_ldexp32_of_normal hb' hmantissa (BitVec.ofInt 32 ((exp32 (low32 x) : Int) - 126))
  rw [low32_onPort32, ldexp32Steps_mantissa32] at hentered'
  exact ⟨t, _, t', _, ht, hentered, ht', hentered', low32_onPort32 _, extractLsb'_high_onPort32 _⟩

end Sys2Proof.Machine
end
